-- ==== Sys2Proof/Word.lean ====
section
/-!
DEFINITION. The bit-vector widths the spec fixes (00_scope.md R7): 16 address lines, 8 data lines, a 7-bit refresh
row, 32-bit command words.
-/
namespace Sys2Proof

/-- One data byte: the data bus is 8 bits wide (R7). -/
abbrev Byte := BitVec 8

/-- A value of the 16-bit address bus (R7). -/
abbrev Addr := BitVec 16

/-- The refresh row counter, "an integer counter in [0, 127]" (R7, R38). -/
abbrev Row := BitVec 7

/-- One command word (R90). -/
abbrev CommandWord := BitVec 32

end Sys2Proof
end

