-- ==== Sys2Proof/Syntax.lean ====
section
/-!
DEFINITION. The command set: one constructor of `Instr` per row of spec/opcode_table.json (30_encoding.md R103),
with the names the operands have there, and the named things operands speak of.
-/
namespace Sys2Proof

/-- Direction of a control line (10_state.md R22): `input` is 0, `output` is 1. -/
inductive Dir
  | input
  | output
  deriving DecidableEq, Repr, Inhabited

/-- Level of a control line (10_state.md R23): `low` is 0, `high` is 1. -/
inductive Level
  | low
  | high
  deriving DecidableEq, Repr, Inhabited

/-- The twelve control lines in the order of their ids (10_state.md R21); `ioIn` and `ioOut` are IN and OUT. -/
inductive Signal
  | ras
  | cas
  | mux
  | rd
  | wr
  | ioIn
  | ioOut
  | int
  | test
  | wait
  | sysRes
  | intAck
  deriving DecidableEq, Repr

/-- The 60 commands. A `sig` operand is the 4-bit SIG field; ids 12 to 15 are ill-formed (R104). -/
inductive Instr
  -- SignalPort (40_signal_port.md)
  | spDir (sig : BitVec 4) (dir : Dir)
  | spSet (sig : BitVec 4) (lvl : Level)
  | spGet (sig : BitVec 4)
  | spGetdir (sig : BitVec 4)
  | spAdir (mask : BitVec 16)
  | spAout (value : BitVec 16)
  | spAin
  | spAgetdir
  | spDdir (mask : BitVec 8)
  | spDout (value : BitVec 8)
  | spDin
  | spDgetdir
  -- AddressBus (41_bus_wrappers.md, section 1)
  | abSetr
  | abSetw
  | abIsr
  | abIsw
  | abRdaddr
  | abWraddr (addr : Addr)
  | abRdioaddr
  | abWrioaddr (port : Byte)
  | abWrref (row : Byte)
  | abState
  -- DataBus (41_bus_wrappers.md, section 2)
  | dbSetr
  | dbSetw
  | dbIsr
  | dbIsw
  | dbRd
  | dbWr (data : Byte)
  | dbState
  -- Bus mastership (42_mastership.md)
  | bcTeston
  | bcTestoff
  | bcWaiton
  | bcWaitoff
  | bcIsmut
  | bcIsref
  | bcRow
  -- Bus cycles (43_bus_cycles.md)
  | bcRdmem (addr : Addr)
  | bcWrmem (addr : Addr) (data : Byte)
  | bcRdio (port : Byte)
  | bcWrio (port : Byte) (data : Byte)
  | bcRdmemn (addr : Addr) (len : BitVec 16)
  | bcWrmemn (addr : Addr) (len : BitVec 16) (offset : BitVec 16)
  | bcCopy (src : Addr) (dst : Addr) (len : BitVec 16)
  | bcFill (addr : Addr) (len : BitVec 16) (value : Byte)
  -- Interrupt and refresh (44_interrupt_refresh.md)
  | bcInt (code : Byte) (tmo : BitVec 16)
  | bcRefon
  | bcRefoff
  -- Classification, diagnostics, version, initialise and shutdown (45_queries_diagnostics.md)
  | isRom (addr : Addr)
  | isUnused (addr : Addr)
  | isMmio (addr : Addr)
  | isKbd (addr : Addr)
  | isVideo (addr : Addr)
  | isSysmem (addr : Addr)
  | isLoexp (addr : Addr)
  | isHiexp (addr : Addr)
  | bcState
  | ver
  | verstr
  | bcInit (rc : Bool)
  | bcShutdown
  deriving DecidableEq, Repr

end Sys2Proof
end

