-- ==== Sys2Proof/Config.lean ====
section
/-!
DEFINITION. The named parameters of 00_scope.md R7 (a record the machine takes as an argument) and the free values the
spec leaves open: constants without a body, of which nothing can be proved.
-/
namespace Sys2Proof

/-- What A15..A8 carry when an I/O address is written (92_eei_decisions.md D10). -/
inductive IoHighByte
  | hold
  | zero
  deriving DecidableEq, Repr, Inhabited

/-- Whether an I/O cycle strobes RAS, MUX and CAS (92_eei_decisions.md D12). -/
inductive IoShape
  | full
  | strobeOnly
  deriving DecidableEq, Repr, Inhabited

/-- What a cycle's address write does where a raw SP.ADIR has made every address line an input and left the flag true: the
rules differ (log entry 23), so it is a parameter. The flag alone gates the write (20_memory.md R74, 41_bus_wrappers.md
R155), or the write is rejected (43_bus_cycles.md R228, 70_reset_and_hazards.md R373). -/
inductive ReleasedAddress
  | written
  | rejected
  deriving DecidableEq, Repr, Inhabited

/-- Whose cycles `CYCLE_UNIT` counts (70_reset_and_hazards.md R392). -/
inductive CycleUnit
  | hostCpuCycle
  | controllerCycle
  deriving DecidableEq, Repr, Inhabited

/-- The named holds of 70_reset_and_hazards.md R390. -/
inductive Hold
  | tSettle
  | tR1
  | tR2
  | tR3
  | tR4
  | tW1
  | tW2
  | tW3
  | tW4
  | tIoR1
  | tIoR2
  | tIoR3
  | tIoR4
  | tIoW1
  | tIoW2
  | tIoW3
  | tIoW4
  | tIntData
  | tPoll
  | tRefRas
  deriving DecidableEq, Repr

/-- The timing parameters of 70_reset_and_hazards.md R390, in cycle units. No source gives a value. -/
structure Timing where
  tSettle : Nat
  tR1 : Nat
  tR2 : Nat
  tR3 : Nat
  tR4 : Nat
  tW1 : Nat
  tW2 : Nat
  tW3 : Nat
  tW4 : Nat
  tIoR1 : Nat
  tIoR2 : Nat
  tIoR3 : Nat
  tIoR4 : Nat
  tIoW1 : Nat
  tIoW2 : Nat
  tIoW3 : Nat
  tIoW4 : Nat
  tIntData : Nat
  tPoll : Nat
  tRefRas : Nat
  tRefPeriod : Nat
  tRefreshWindow : Nat
  cycleUnit : CycleUnit
  deriving DecidableEq, Repr, Inhabited

/-- The lower bound a hold of the given name records (00_scope.md R9). -/
def Timing.bound (t : Timing) : Hold → Nat
  | .tSettle => t.tSettle
  | .tR1 => t.tR1
  | .tR2 => t.tR2
  | .tR3 => t.tR3
  | .tR4 => t.tR4
  | .tW1 => t.tW1
  | .tW2 => t.tW2
  | .tW3 => t.tW3
  | .tW4 => t.tW4
  | .tIoR1 => t.tIoR1
  | .tIoR2 => t.tIoR2
  | .tIoR3 => t.tIoR3
  | .tIoR4 => t.tIoR4
  | .tIoW1 => t.tIoW1
  | .tIoW2 => t.tIoW2
  | .tIoW3 => t.tIoW3
  | .tIoW4 => t.tIoW4
  | .tIntData => t.tIntData
  | .tPoll => t.tPoll
  | .tRefRas => t.tRefRas

/-- The relations among the timing parameters that the source states (70_reset_and_hazards.md R391). No rule of the
machine depends on them; that one `tSettle` serves both edges of TEST is in the record itself. -/
abbrev Timing.related (t : Timing) : Prop :=
  t.tW1 + t.tW2 + t.tW3 + t.tW4 < t.tR1 + t.tR2 + t.tR3 + t.tR4 ∧ 128 * t.tRefPeriod ≤ t.tRefreshWindow

/-- The named parameters of 00_scope.md R7, with one of the model's own, `releasedAddress` (log entry 23). `ramRegions` is
RAM_REGIONS as a list of inclusive ranges (first, last). -/
structure Params where
  ioHighByte : IoHighByte
  ioShape : IoShape
  gateIntWait : Bool
  releasedAddress : ReleasedAddress
  ramRegions : List (Nat × Nat)
  versionMajor : Nat
  versionMinor : Nat
  versionRevision : Nat
  timing : Timing
  deriving DecidableEq, Repr

/-- DESIGN CHOICE (log entry 2), safe: the free values of `Env` and `Draw()` (00_scope.md R8), one natural number for
each draw by its number. Nothing constrains it. -/
opaque Config.freeDraw : Nat → Nat

/-- DESIGN CHOICE (log entry 3), unsafe: the level latch at reset, by signal id; the spec says "a draw" (R23, I1). -/
opaque Config.resetLevel : Nat → Level

/-- DESIGN CHOICE (log entry 3), unsafe: `AB.latch` at reset; the spec says "a draw" (R26, I2). -/
opaque Config.resetAbLatch : BitVec 16

/-- DESIGN CHOICE (log entry 3), unsafe: `DB.latch` at reset; the spec says "a draw" (R30, I2). -/
opaque Config.resetDbLatch : BitVec 8

/-- `VERSION_MAJOR`; no source gives a value (92_eei_decisions.md D28). -/
opaque Config.versionMajor : Nat

/-- `VERSION_MINOR`; no source gives a value (92_eei_decisions.md D28). -/
opaque Config.versionMinor : Nat

/-- `VERSION_REVISION`; no source gives a value (92_eei_decisions.md D28). -/
opaque Config.versionRevision : Nat

/-- The timing parameters; no source gives a value (92_eei_decisions.md D35). -/
opaque Config.timing : Timing

/-- DESIGN CHOICE (log entry 23), safe: which of the two readings of the rules holds; nothing constrains it. -/
opaque Config.releasedAddress : ReleasedAddress

/-- The parameters of the machine after reset: the spec's default where it gives one (D10, D12, D16, D26), else a free
value. Every statement about any state holds for any other parameters too (log entry 4). -/
def Config.params : Params where
  ioHighByte := .hold
  ioShape := .full
  gateIntWait := true
  releasedAddress := Config.releasedAddress
  ramRegions := []
  versionMajor := Config.versionMajor
  versionMinor := Config.versionMinor
  versionRevision := Config.versionRevision
  timing := Config.timing

end Sys2Proof
end

