-- ==== Sys2Proof/Machine/State.lean ====
section
/-!
DEFINITION. The state of BMC (10_state.md R20), the model's own fields beside it, what a step can stop with, and the
state after reset (R45, 70_reset_and_hazards.md R360). Plain data only.
-/
namespace Sys2Proof.Machine

/-- One signal cell `sig[S]`: its direction and its level latch (R22, R23). -/
structure Line where
  dir : Dir
  lvl : Level
  deriving DecidableEq, Repr

/-- The twelve signal cells (R21). -/
structure Signals where
  ras : Line
  cas : Line
  mux : Line
  rd : Line
  wr : Line
  ioIn : Line
  ioOut : Line
  int : Line
  test : Line
  wait : Line
  sysRes : Line
  intAck : Line
  deriving DecidableEq, Repr

/-- The cells of one tri-state bus of width `n`: output register, direction mask (bit set = output) and the wrapper's
direction flag (R26 to R28 for AB, R30 to R32 for DB). -/
structure Bus (n : Nat) where
  latch : BitVec n
  mask : BitVec n
  writable : Bool
  deriving DecidableEq, Repr

/-- The kinds of log event (60_exceptions.md R320). -/
inductive LogKind
  | errNotMutable
  | errNotWritable
  | errContract
  | errIntTimeout
  | errAlloc
  | errNoTimer
  | wrnRedundant
  | wrnOverlap
  deriving DecidableEq, Repr

/-- The fault kinds (60_exceptions.md R332). -/
inductive FaultKind
  | illegal
  | writeInput
  | inputOnly
  | contention
  | buffer
  deriving DecidableEq, Repr

/-- The value of a command's `respond(...)` (30_encoding.md R109). A string is the list of its characters. -/
inductive Response
  | level (l : Level)
  | dir (d : Dir)
  | bool (b : Bool)
  | byte (b : Byte)
  | row (r : Row)
  | word (w : BitVec 16)
  | bytes (bs : List Byte)
  | null
  | text (cs : List Char)
  | version (major minor revision : Nat)
  deriving DecidableEq, Repr

/-- One micro-step as it was performed (00_scope.md R9): a line or bus change, a mask change, a hold, a sample or a read
of a register, a log event or a response. -/
inductive MicroStep
  /-- The passing `mutable` check that a command starts with: no change (95_test_vectors.md V-MS-1 step 1). -/
  | check
  /-- `sig[S].dir <- d` (40_signal_port.md R121; `Release(S)` of R134 is the case `input`). -/
  | setDir (s : Signal) (d : Dir)
  /-- `Write(S, l)`: the SignalPort level write (R122, R134). -/
  | write (s : Signal) (l : Level)
  /-- `DriveOut(S, l)`: level and direction at once (R134). -/
  | driveOut (s : Signal) (l : Level)
  /-- `AB.mask <- m` (R126). -/
  | abMask (m : BitVec 16)
  /-- `AB.latch <- v` (R127, 41_bus_wrappers.md R155, R157, R158). -/
  | abLatch (v : BitVec 16)
  /-- `AB.mask <- 0x0000; AB.writable <- false` (R150, 45_queries_diagnostics.md R305). -/
  | abSetReadable
  /-- `AB.mask <- 0xFFFF; AB.writable <- true` (R151). -/
  | abSetWritable
  /-- `DB.mask <- m` (R130). -/
  | dbMask (m : Byte)
  /-- `DB.latch <- v` (R131, R175). -/
  | dbLatch (v : Byte)
  /-- `DB.mask <- 0x00; DB.writable <- false` (R170, R305). -/
  | dbSetReadable
  /-- `DB.mask <- 0xFF; DB.writable <- true` (R171). -/
  | dbSetWritable
  /-- `busGranted <- true` (42_mastership.md R191). `othersWrote` is the environment's word on whether another agent
  wrote target memory while it had the bus (20_memory.md R66; log entry 6). -/
  | grant (othersWrote : Bool)
  /-- `mutable <- b` (R191, R193). -/
  | setMutable (b : Bool)
  /-- `refreshEnabled <- b` (44_interrupt_refresh.md R266, R267). -/
  | setRefresh (b : Bool)
  /-- `refreshConfigured <- b` (R305). -/
  | setConfigured (b : Bool)
  /-- `masked <- b` (43_bus_cycles.md R225). -/
  | setMasked (b : Bool)
  /-- `refreshRow <- (refreshRow + 1) mod 128` (R271). -/
  | nextRow
  /-- `Hold(T)`: a lower bound in cycle units, no change (00_scope.md R9). -/
  | hold (h : Hold) (atLeast : Nat)
  /-- One read of a signal's direction (40_signal_port.md R120, R124). -/
  | readDir (s : Signal) (d : Dir)
  /-- One read of `AB.mask` (R120, R129). -/
  | readAbMask (m : BitVec 16)
  /-- One read of `DB.mask` (R120, R133). -/
  | readDbMask (m : Byte)
  /-- One sample of the address lines, `lines(AB)` (R128, 41_bus_wrappers.md R154, R156, R159). -/
  | sampleAb (v : Addr)
  /-- One sample of the data lines by a query, `lines(DB)` (R132, R174, R176). -/
  | sampleDb (v : Byte)
  /-- One sample of a control line (R123, R260, 45_queries_diagnostics.md R301). -/
  | sampleLine (s : Signal) (l : Level)
  /-- The sample `d <- lines(DB)` of a memory read cycle, at the address the target decodes (R220, R227). -/
  | sampleMem (addr : Addr) (d : Byte)
  /-- The sample `d <- lines(DB)` of an I/O read cycle, at the port the target decodes (R222, R227). -/
  | sampleIo (port : Byte) (d : Byte)
  /-- The target takes the byte of a memory write cycle (`MemWrite`, R227). -/
  | memWrite (addr : Addr) (d : Byte)
  /-- A device takes the byte of an I/O write cycle (R223, R227). -/
  | ioWrite (port : Byte) (d : Byte)
  /-- `Log(level, kind)` (00_scope.md R10); the level follows from the kind (R320). -/
  | log (k : LogKind)
  /-- The redundant branch of a wrapper or refresh command: no change, and the optional warning if `logged`
  (92_eei_decisions.md D19, D20). -/
  | redundant (logged : Bool)
  /-- `respond(v)` (00_scope.md R8). -/
  | respond (v : Response)
  deriving DecidableEq, Repr

/-- Who performed a micro-step (00_scope.md R6). -/
inductive Agent
  | foreground
  | refresh
  | environment
  deriving DecidableEq, Repr

/-- One entry of the trace. -/
structure Event where
  agent : Agent
  act : MicroStep
  deriving DecidableEq, Repr

/-- One delivery of the command port (30_encoding.md R90, 60_exceptions.md R356): the command word, the second word
(read by a format B command only), and the host buffer, or `none` for `absent`. -/
structure Delivery where
  word : CommandWord
  word2 : CommandWord
  buffer : Option (List Byte)
  deriving DecidableEq, Repr

/-- Target memory: the bytes known to stand there, by address, in the canonical form of `Memory.wf` (20_memory.md R66,
log entry 5). An unlisted address has no known byte and reads as a free value. -/
abbrev Memory := List Host.Cell

/-- The machine's state: the cells of R20, then the model's own fields. -/
structure State where
  /-- `sig[S]` (R21 to R25). -/
  signals : Signals
  /-- `AB.latch`, `AB.mask`, `AB.writable` (R26 to R28). -/
  ab : Bus 16
  /-- `DB.latch`, `DB.mask`, `DB.writable` (R30 to R32). -/
  db : Bus 8
  /-- R34. -/
  mutable : Bool
  /-- R35. -/
  refreshEnabled : Bool
  /-- R38. -/
  refreshRow : Row
  /-- R39. -/
  refreshConfigured : Bool
  /-- R36. -/
  masked : Bool
  /-- R37. -/
  busGranted : Bool
  /-- R40. -/
  fault : Option FaultKind
  /-- The foreground agent's position (R20, R43): how many micro-steps of its command it has performed; 0 when idle. -/
  position : Nat
  /-- The part of that position the safety predicate reads (60_exceptions.md R334). -/
  intAckDrive : Bool
  /-- The named parameters (00_scope.md R7); no step writes them (log entry 4). -/
  params : Params
  /-- The target memory of the optional assumption of 20_memory.md R66 (log entry 5). -/
  memory : Memory
  /-- Commands delivered by the host and not yet accepted, next first (R90, log entry 8). -/
  pending : List Delivery
  /-- The host buffer delivered with the command being executed (R90, R231). -/
  buffer : Option (List Byte)
  /-- Draws supplied from outside, next first (log entry 2). -/
  inputs : List Nat
  /-- How many draws have been taken (log entry 2). -/
  drawCount : Nat
  /-- Every micro-step performed, oldest first: line changes, holds, samples, log events, responses (R9, R356). -/
  trace : List Event
  deriving DecidableEq, Repr

/-- Why the run ended (60_exceptions.md R332, R333). Each constructor holds the state the run ended in. Ending the run
is what the spec says (R333), so each is safe; log entry 9. -/
inductive Fault
  /-- `FLT_ILLEGAL`: raised by `step` on a word the decoder rejects, and by an SP command whose SIG is 12 to 15 (R104). -/
  | illegal (final : State)
  /-- `FLT_WRITE_INPUT`: raised by the micro-step `write` on a signal that is an input (R122, R134, R135). -/
  | writeInput (final : State)
  /-- `FLT_INPUT_ONLY`: raised by the micro-step `setDir` that would make SYS_RES or INT_ACK an output (R121). -/
  | inputOnly (final : State)
  /-- `FLT_CONTENTION`: raised after any micro-step of either agent that leaves the safety predicate true (R334). -/
  | contention (final : State)
  /-- `FLT_BUFFER`: raised by BC.WRMEMN when offset + len is beyond the host buffer (R231). -/
  | buffer (final : State)
  deriving DecidableEq, Repr

/-- Why a command has no meaning. None is ever answered: an encoding the decoder rejects is handled as the fault
`FLT_ILLEGAL` (00_scope.md R11). -/
inductive Refusal
  /-- Raised by an arm of `exec` for a command not modelled yet; no arm does. Safe. -/
  | notModelled (mnemonic : String)
  deriving DecidableEq, Repr

/-- A signal cell after reset: an input (R22); its level latch is the free value of log entry 3. -/
def resetLine (id : Nat) : Line where
  dir := .input
  lvl := Config.resetLevel id

/-- The machine right after construction (R45, R360), idle, with no command delivered. -/
def State.reset : State where
  signals :=
    { ras := resetLine 0, cas := resetLine 1, mux := resetLine 2, rd := resetLine 3, wr := resetLine 4,
      ioIn := resetLine 5, ioOut := resetLine 6, int := resetLine 7, test := resetLine 8, wait := resetLine 9,
      sysRes := resetLine 10, intAck := resetLine 11 }
  ab := { latch := Config.resetAbLatch, mask := 0x0000, writable := false }
  db := { latch := Config.resetDbLatch, mask := 0x00, writable := false }
  mutable := false
  refreshEnabled := false
  refreshRow := 0
  refreshConfigured := false
  masked := false
  busGranted := false
  fault := none
  position := 0
  intAckDrive := false
  params := Config.params
  memory := []
  pending := []
  buffer := none
  inputs := []
  drawCount := 0
  trace := []

end Sys2Proof.Machine
end

