-- ==== Sys2Proof/Machine/Operands.lean ====
section
/-!
DEFINITION. What a command's operands and reads stand for: signal ids, signal cells, draws of the environment, the
levels and values seen on lines, address and bit arithmetic, ranges of the target memory map.
-/
namespace Sys2Proof.Machine

/-! ### Signals -/

/-- The id of a signal (10_state.md R21). -/
def signalId : Signal → Nat
  | .ras => 0
  | .cas => 1
  | .mux => 2
  | .rd => 3
  | .wr => 4
  | .ioIn => 5
  | .ioOut => 6
  | .int => 7
  | .test => 8
  | .wait => 9
  | .sysRes => 10
  | .intAck => 11

/-- The twelve signals in id order (R21). -/
def allSignals : List Signal :=
  [.ras, .cas, .mux, .rd, .wr, .ioIn, .ioOut, .int, .test, .wait, .sysRes, .intAck]

/-- The signal a SIG field names; ids 12 to 15 name none (30_encoding.md R93, R104). -/
def signalOfField (sig : BitVec 4) : Option Signal :=
  match sig.toNat with
  | 0 => some .ras
  | 1 => some .cas
  | 2 => some .mux
  | 3 => some .rd
  | 4 => some .wr
  | 5 => some .ioIn
  | 6 => some .ioOut
  | 7 => some .int
  | 8 => some .test
  | 9 => some .wait
  | 10 => some .sysRes
  | 11 => some .intAck
  | _ => none

/-- The SIG field of a signal (30_encoding.md R93). -/
def signalField (s : Signal) : BitVec 4 := BitVec.ofNat 4 (signalId s)

/-- The signal's name in the diagnostic string (45_queries_diagnostics.md R301). -/
def signalName : Signal → List Char
  | .ras => ['R', 'A', 'S']
  | .cas => ['C', 'A', 'S']
  | .mux => ['M', 'U', 'X']
  | .rd => ['R', 'D']
  | .wr => ['W', 'R']
  | .ioIn => ['I', 'N']
  | .ioOut => ['O', 'U', 'T']
  | .int => ['I', 'N', 'T']
  | .test => ['T', 'E', 'S', 'T']
  | .wait => ['W', 'A', 'I', 'T']
  | .sysRes => ['S', 'Y', 'S', '_', 'R', 'E', 'S']
  | .intAck => ['I', 'N', 'T', '_', 'A', 'C', 'K']

/-- The active level of a signal: low, but high for MUX (R21). -/
def activeLevel : Signal → Level
  | .mux => .high
  | _ => .low

/-- The inactive level of a signal (40_signal_port.md R134). -/
def inactiveLevel : Signal → Level
  | .mux => .low
  | _ => .high

/-- "input-only, CPU-driven" signals (R21). -/
def inputOnly : Signal → Bool
  | .sysRes => true
  | .intAck => true
  | _ => false

/-- The cell `sig[S]`. -/
def Signals.get (c : Signals) : Signal → Line
  | .ras => c.ras
  | .cas => c.cas
  | .mux => c.mux
  | .rd => c.rd
  | .wr => c.wr
  | .ioIn => c.ioIn
  | .ioOut => c.ioOut
  | .int => c.int
  | .test => c.test
  | .wait => c.wait
  | .sysRes => c.sysRes
  | .intAck => c.intAck

/-- `sig[S] <- l`, the other cells unchanged. -/
def Signals.set (c : Signals) (s : Signal) (l : Line) : Signals :=
  match s with
  | .ras => { c with ras := l }
  | .cas => { c with cas := l }
  | .mux => { c with mux := l }
  | .rd => { c with rd := l }
  | .wr => { c with wr := l }
  | .ioIn => { c with ioIn := l }
  | .ioOut => { c with ioOut := l }
  | .int => { c with int := l }
  | .test => { c with test := l }
  | .wait => { c with wait := l }
  | .sysRes => { c with sysRes := l }
  | .intAck => { c with intAck := l }

/-- The cell `sig[S]` of a state. -/
def State.line (s : State) (n : Signal) : Line := s.signals.get n

/-! ### Draws (00_scope.md R8, log entry 2) -/

/-- The draw `k` places ahead: the supplied input if there is one, else a free value. -/
def State.drawn (s : State) (k : Nat) : Nat := s.inputs.getD k (Config.freeDraw (s.drawCount + k))

/-- A draw as a Boolean: odd is true. -/
def State.drawnBool (s : State) (k : Nat) : Bool := s.drawn k % 2 == 1

/-- A draw as a level: odd is high. -/
def State.drawnLevel (s : State) (k : Nat) : Level := if s.drawn k % 2 = 1 then .high else .low

/-- Takes `k` draws. -/
def State.skip (k : Nat) (s : State) : State :=
  { s with inputs := s.inputs.drop k, drawCount := s.drawCount + k }

/-! ### What is seen on lines -/

/-- `line(S)` (R24): the driven level of an output, the draw `k` for an input. -/
def State.lineLevel (s : State) (n : Signal) (k : Nat) : Level :=
  match (s.line n).dir with
  | .output => (s.line n).lvl
  | .input => s.drawnLevel k

/-- `lines(B)` for the environment value `env` (R29). -/
def Bus.lines {n : Nat} (b : Bus n) (env : BitVec n) : BitVec n := (b.latch &&& b.mask) ||| (env &&& ~~~b.mask)

/-- `lines(AB)` with the draw `k` on undriven lines (R29). -/
def State.abLines (s : State) (k : Nat) : Addr := s.ab.lines (BitVec.ofNat 16 (s.drawn k))

/-- `lines(DB)` with the draw `k` on undriven lines (R29). -/
def State.dbLines (s : State) (k : Nat) : Byte := s.db.lines (BitVec.ofNat 8 (s.drawn k))

/-! ### Addresses -/

/-- `{v[15:8], low}`. -/
def withLowByte (v : Addr) (low : Byte) : Addr := (v &&& 0xFF00) ||| low.setWidth 16

/-- `v[7:0]`. -/
def lowByte (v : Addr) : Byte := v.setWidth 8

/-- The address of the `k`-th byte of a bulk command at base `a`, modulo 2^16 (43_bus_cycles.md R234). -/
def bulkAddr (a : Addr) (k : Nat) : Addr := a + BitVec.ofNat 16 k

/-- The latch value an I/O address write leaves (41_bus_wrappers.md R157). -/
def ioAddress (h : IoHighByte) (latch : Addr) (port : Byte) : Addr :=
  match h with
  | .hold => withLowByte latch port
  | .zero => port.setWidth 16

/-- `first <= a <= last` (20_memory.md R63). -/
def inRange (first last : Nat) (a : Addr) : Bool := decide (first ≤ a.toNat) && decide (a.toNat ≤ last)

/-- Whether the ranges `rs` hold `a` (RAM_REGIONS, 20_memory.md R66). -/
def inRegions (rs : List (Nat × Nat)) (a : Addr) : Bool := rs.any fun r => inRange r.1 r.2 a

/-- How far the destination starts above the source, modulo 2^16: `dlt` of BC.COPY (43_bus_cycles.md R232). -/
def copyDelta (src dst : Addr) : Nat := (dst - src).toNat

/-- Whether the ranges of BC.COPY overlap, modulo 2^16 (R232). -/
def copyOverlap (src dst : Addr) (n : Nat) : Bool :=
  decide (copyDelta src dst < n) || decide (copyDelta dst src < n)

/-- The order in which BC.COPY copies its `n` bytes: high to low when the destination starts inside the source, else
low to high (R232, 92_eei_decisions.md D24). -/
def copyOrder (src dst : Addr) (n : Nat) : List Nat :=
  if copyDelta src dst ≠ 0 ∧ copyDelta src dst < n then (List.range n).reverse else List.range n

end Sys2Proof.Machine
end

