-- ==== Sys2Proof/Machine/Flags.lean ====
section
/-!
DEFINITION. What is computed from the status cells: whether a signal is asserted (10_state.md R25), the safety
predicate (60_exceptions.md R334), the tick enable (44_interrupt_refresh.md R270), and the codes of log events and
faults (R320, R332). BMC has no condition codes (R42).
-/
namespace Sys2Proof.Machine

/-- Signal `n` is asserted by BMC: an output at its active level (R25). -/
def State.asserted (s : State) (n : Signal) : Bool :=
  (s.line n).dir == .output && (s.line n).lvl == activeLevel n

/-- The shared-control signals (R21). -/
def sharedSignals : List Signal := [.ras, .cas, .mux, .rd, .wr, .ioIn, .ioOut]

/-- `sharedOut` of R334: some shared-control signal is an output. -/
def State.sharedOut (s : State) : Bool := sharedSignals.any fun n => (s.line n).dir == .output

/-- The safety predicate of R334: (a) a shared line driven while the host CPU may drive it, with the exemption (c) for
the interrupt code on the data bus, or (b) the data bus driven during a read strobe. -/
def State.contention (s : State) : Bool :=
  (!s.busGranted && (s.ab.mask != 0 || s.sharedOut)) ||
  (!s.busGranted && s.db.mask != 0 && !s.intAckDrive) ||
  (s.db.mask != 0 && (s.asserted .rd || s.asserted .ioIn))

/-- When the refresh tick may run (R270). -/
def State.tickEnabled (s : State) : Bool := s.refreshEnabled && !s.masked && s.fault == none

/-- WAIT is active: an output driving low (42_mastership.md R195, R196, 92_eei_decisions.md D17). -/
def State.waitActive (s : State) : Bool := (s.line .wait).dir == .output && (s.line .wait).lvl == .low

/-- BC.INT and BC.WAITON are rejected: gated and Immutable (44_interrupt_refresh.md R261, R195). -/
def State.gatedOut (s : State) : Bool := s.params.gateIntWait && !s.mutable

/-- Log levels (00_scope.md R10). -/
inductive LogLevel
  | info
  | warn
  | err
  deriving DecidableEq, Repr

/-- The level of a log kind (R320). -/
def logLevel : LogKind → LogLevel
  | .errNotMutable => .err
  | .errNotWritable => .err
  | .errContract => .err
  | .errIntTimeout => .err
  | .errAlloc => .err
  | .errNoTimer => .err
  | .wrnRedundant => .warn
  | .wrnOverlap => .warn

/-- The numeric code of a log kind (R320). -/
def logCode : LogKind → Nat
  | .errNotMutable => 1
  | .errNotWritable => 2
  | .errContract => 3
  | .errIntTimeout => 4
  | .errAlloc => 5
  | .errNoTimer => 6
  | .wrnRedundant => 16
  | .wrnOverlap => 17

/-- The numeric code of a fault kind (R332). -/
def faultCode : FaultKind → Nat
  | .illegal => 1
  | .writeInput => 2
  | .inputOnly => 3
  | .contention => 4
  | .buffer => 5

/-- The log event a micro-step emits, if it emits one (R320). -/
def logOf : MicroStep → Option LogKind
  | .log k => some k
  | .redundant true => some .wrnRedundant
  | _ => none

/-- The log channel: the log events of the run, oldest first (60_exceptions.md R356). -/
def State.logs (s : State) : List LogKind := s.trace.filterMap fun e => logOf e.act

/-- The response of a micro-step, if it is one. -/
def responseOf : MicroStep → Option Response
  | .respond v => some v
  | _ => none

/-- The response channel: the responses of the run, oldest first (60_exceptions.md R356). -/
def State.responses (s : State) : List Response := s.trace.filterMap fun e => responseOf e.act

/-- The micro-steps that are not the refresh tick's, oldest first: what the foreground agent did and what the target
took from its cycles. -/
def State.foregroundSteps (s : State) : List MicroStep :=
  s.trace.filterMap fun e => if e.agent = .refresh then none else some e.act

/-- The micro-steps of the refresh-tick agent, oldest first. -/
def State.refreshSteps (s : State) : List MicroStep :=
  s.trace.filterMap fun e => if e.agent = .refresh then some e.act else none

end Sys2Proof.Machine
end

