-- ==== Sys2Proof/Machine/Memory.lean ====
section
/-!
DEFINITION. The target memory of 20_memory.md R66: one byte per address (R60), sparse, in one canonical form. An
unlisted address holds no known byte; what a read there gives is a free value, taken by the read cycle (log entry 5).
-/
namespace Sys2Proof.Machine

/-- The byte known to stand at `a`, if one does. -/
def Memory.read : Memory → Nat → Option Byte
  | [], _ => none
  | (b, d) :: m, a => if a = b then some d else Memory.read m a

/-- `MemWrite(a, 1, d)`: the byte at `a` becomes `d`; the list stays sorted by address. -/
def Memory.write : Memory → Nat → Byte → Memory
  | [], a, d => [(a, d)]
  | (b, e) :: m, a, d =>
    if a < b then (a, d) :: (b, e) :: m
    else if a = b then (a, d) :: m
    else (b, e) :: Memory.write m a d

/-- Every address of `m` is at least `lo` and they strictly rise. -/
def Memory.risingFrom : Nat → Memory → Bool
  | _, [] => true
  | lo, (a, _) :: m => decide (lo ≤ a) && Memory.risingFrom (a + 1) m

/-- Every address of `m` is an address of the memory space, 0x0000 to 0xFFFF (R60). -/
def Memory.inSpace (m : Memory) : Bool := m.all fun c => decide (c.1 < 65536)

/-- The canonical form: addresses strictly rising and inside the memory space. An unlisted address has no value, so no
entry equals what an unlisted address reads as. -/
def Memory.wf (m : Memory) : Bool := Memory.risingFrom 0 m && m.inSpace

end Sys2Proof.Machine
end

