-- ==== Sys2Proof/Machine/Ops.lean ====
section
/-!
DEFINITION. The shared operations: writing cells, taking a fault, performing one micro-step of either agent, the
refresh tick and the boundary it runs at, and running a command as a list of micro-steps.
-/
namespace Sys2Proof.Machine

/-! ### Writing cells -/

/-- `sig[S] <- l`. When the write leaves TEST not asserted, `busGranted <- false` (10_state.md R37, 40_signal_port.md
R121, R122). -/
def State.setLine (n : Signal) (l : Line) (s : State) : State :=
  { s with
    signals := s.signals.set n l
    busGranted := if n = .test ∧ ¬ (l.dir = .output ∧ l.lvl = activeLevel .test) then false else s.busGranted }

/-- Appends one entry to the trace. -/
def State.record (a : Agent) (m : MicroStep) (s : State) : State := { s with trace := s.trace ++ [⟨a, m⟩] }

/-- The foreground agent at rest between two commands (R45: "idle, awaiting"). -/
def State.idle (s : State) : State := { s with position := 0, intAckDrive := false }

/-! ### Faults -/

/-- The fault of a kind, with the state the run ends in. -/
def faultOf : FaultKind → State → Fault
  | .illegal, s => .illegal s
  | .writeInput, s => .writeInput s
  | .inputOnly, s => .inputOnly s
  | .contention, s => .contention s
  | .buffer, s => .buffer s

/-- `raise Fault(kind)`: taking a fault records its kind and ends the run (R332, R333). Nothing is saved, there is no
vector, and nothing returns from it. -/
def raise {α : Type} (k : FaultKind) (s : State) : Except Fault α := .error (faultOf k { s with fault := some k })

/-- The fault that keeps a micro-step from being performed (R333): a level write to an input (R122), an input-only line
made an output (R121). -/
def MicroStep.prevented (s : State) : MicroStep → Option FaultKind
  | .setDir n d => if d = .output ∧ inputOnly n = true then some .inputOnly else none
  | .write n _ => if (s.line n).dir = .input then some .writeInput else none
  | _ => none

/-! ### Micro-steps -/

/-- The change of one micro-step (00_scope.md R9); each constructor of `MicroStep` cites its rule. -/
def MicroStep.apply (s : State) : MicroStep → State
  | .check => s
  | .setDir n d => s.setLine n { s.line n with dir := d }
  | .write n l => s.setLine n { s.line n with lvl := l }
  | .driveOut n l => s.setLine n { dir := .output, lvl := l }
  | .abMask m => { s with ab := { s.ab with mask := m } }
  | .abLatch v => { s with ab := { s.ab with latch := v } }
  | .abSetReadable => { s with ab := { s.ab with mask := 0x0000, writable := false } }
  | .abSetWritable => { s with ab := { s.ab with mask := 0xFFFF, writable := true } }
  | .dbMask m => { s with db := { s.db with mask := m } }
  | .dbLatch v => { s with db := { s.db with latch := v } }
  | .dbSetReadable => { s with db := { s.db with mask := 0x00, writable := false } }
  | .dbSetWritable => { s with db := { s.db with mask := 0xFF, writable := true } }
  | .grant othersWrote => { s with busGranted := true, memory := if othersWrote then [] else s.memory }
  | .setMutable b => { s with mutable := b }
  | .setRefresh b => { s with refreshEnabled := b }
  | .setConfigured b => { s with refreshConfigured := b }
  | .setMasked b => { s with masked := b }
  | .nextRow => { s with refreshRow := s.refreshRow + 1 }
  | .hold _ _ => s
  | .readDir _ _ => s
  | .readAbMask _ => s
  | .readDbMask _ => s
  | .sampleAb _ => s
  | .sampleDb _ => s
  | .sampleLine _ _ => s
  | .sampleMem _ _ => s
  | .sampleIo _ _ => s
  | .memWrite a d =>
    { s with memory := if inRegions s.params.ramRegions a then s.memory.write a.toNat d else s.memory }
  | .ioWrite _ _ => s
  | .log _ => s
  | .redundant _ => s
  | .respond _ => s

/-- The safety check after a micro-step (R334): that micro-step stays performed (R333). -/
def settle (s : State) : Except Fault State := if s.contention then raise .contention s else .ok s

/-- The state after the foreground agent performed `m`, which took `k` draws. `ack` says that `m` is the DB.SETW
micro-step of BC.INT's acknowledged path, or a later one of that path before its DB.SETR (R334). -/
def State.performed (k : Nat) (ack : Bool) (m : MicroStep) (s : State) : State :=
  { ((m.apply s).skip k).record .foreground m with position := s.position + 1, intAckDrive := ack }

/-- One foreground micro-step. -/
def perform (k : Nat) (ack : Bool) (m : MicroStep) (s : State) : Except Fault State :=
  match m.prevented s with
  | some f => raise f s
  | none => settle (s.performed k ack m)

/-! ### The refresh tick -/

/-- One micro-step of the refresh-tick agent: the foreground's position is untouched (R343). -/
def tickStep (m : MicroStep) (s : State) : Except Fault State :=
  match m.prevented s with
  | some f => raise f s
  | none => settle ((m.apply s).record .refresh m)

/-- One refresh tick, `refreshNextRow()` (44_interrupt_refresh.md R271): no foreground micro-step falls inside it. -/
def tick (s : State) : Except Fault State :=
  if s.mutable then do
    let s ← tickStep (.abLatch (withLowByte s.ab.latch (s.refreshRow.setWidth 8))) s
    let s ← tickStep (.write .ras .low) s
    let s ← tickStep (.hold .tRefRas (s.params.timing.bound .tRefRas)) s
    let s ← tickStep (.write .ras .high) s
    tickStep .nextRow s
  else tickStep (.log .errNotMutable) s

/-- `n` ticks back to back (R270). -/
def runTicks : Nat → State → Except Fault State
  | 0, s => .ok s
  | n + 1, s => do
    let s ← tick s
    runTicks n s

/-- A boundary at which the refresh tick may step: where it is enabled, a free number of ticks run (R270, R342). -/
def boundary (s : State) : Except Fault State :=
  if s.tickEnabled then runTicks (s.drawn 0) (s.skip 1) else .ok s

/-! ### Commands -/

/-- What the foreground agent does next, chosen in the state it does it in: how many draws it takes, and the
micro-step. -/
abbrev Pick := State → Nat × MicroStep

/-- The boundary before a micro-step of a command; before the first there is none (the boundary between two commands
is taken by `step`). -/
def gap (s : State) : Except Fault State := if s.position = 0 then .ok s else boundary s

/-- A boundary, then one foreground micro-step. -/
def micro (ack : Bool) (p : Pick) (s : State) : Except Fault State := do
  let s ← gap s
  perform (p s).1 ack (p s).2 s

/-- A boundary, then a micro-step `m x` that reads the value `x`, taking `k` draws; the command keeps what it read. -/
def readStep {α : Type} (k : Nat) (m : α → MicroStep) (value : State → α) (s : State) : Except Fault (α × State) := do
  let s ← gap s
  let t ← perform k false (m (value s)) s
  return (value s, t)

/-- Micro-steps in order (00_scope.md R9: never reordered). -/
def seq : List Pick → State → Except Fault State
  | [], s => .ok s
  | p :: ps, s => do
    let s ← micro false p s
    seq ps s

/-- Runs a body for each index in turn: the loop of a bulk command (43_bus_cycles.md R229). -/
def forEach (body : Nat → State → Except Fault State) : List Nat → State → Except Fault State
  | [], s => .ok s
  | k :: ks, s => do
    let s ← body k s
    forEach body ks s

/-- One command, from its first micro-step to its last (30_encoding.md R90): the foreground agent is idle before and
after it. -/
def command (body : State → Except Fault State) (s : State) : Host.Outcome State Fault Refusal :=
  match body s.idle with
  | .ok t => .next t.idle
  | .error f => .fault f

/-- A command on the signal its SIG field names; a field that names none makes the word illegal (R104). -/
def onSignal (sig : BitVec 4) (body : Signal → State → Except Fault State) (s : State) : Except Fault State :=
  match signalOfField sig with
  | some n => body n s
  | none => raise .illegal s

end Sys2Proof.Machine
end

