-- ==== Sys2Proof/Machine/Bodies.lean ====
section
/-!
DEFINITION. The micro-steps that several commands share ("AB.WRADDR body" and so on, 43_bus_cycles.md), each chosen in
the state it is performed in, and the bodies of the single-byte cycles, which the bulk commands are made of.
-/
namespace Sys2Proof.Machine

/-! ### Plain micro-steps -/

/-- A micro-step that does not depend on the state. -/
def act (m : MicroStep) : Pick := fun _ => (0, m)

/-- `Hold(T)` (00_scope.md R9): its lower bound is the parameter of its name. -/
def hold (h : Hold) : Pick := fun s => (0, .hold h (s.params.timing.bound h))

/-- `Log(level, kind)`. -/
def logStep (k : LogKind) : Pick := act (.log k)

/-- `respond(v)` for a value that is known. -/
def respond (v : Response) : Pick := act (.respond v)

/-- `respond(v)` for a value of the state, in the one micro-step that responds it. -/
def answer (v : State → Response) : Pick := fun s => (0, .respond (v s))

/-- A query: one micro-step that reads `x`, and one that responds what `x` gives (40_signal_port.md R120). -/
def query {α : Type} (k : Nat) (m : α → MicroStep) (value : State → α) (v : α → Response) (s : State) :
    Except Fault State := do
  let (x, s) ← readStep k m value s
  seq [respond (v x)] s

/-- The redundant branch: a no-op with an optional warning, which is a draw (00_scope.md R10, 92_eei_decisions.md
D20). -/
def redundantStep : Pick := fun s => (1, .redundant (s.drawnBool 0))

/-- A request line: asserted by driving low, deasserted by release (10_state.md R25). -/
def requestLine : Signal → Bool
  | .int => true
  | .test => true
  | .wait => true
  | _ => false

/-- `Assert(S)` (40_signal_port.md R134). -/
def assertLine (n : Signal) : Pick :=
  act (if requestLine n then .driveOut n .low else .write n (activeLevel n))

/-- `Release(S)` (R134). -/
def release (n : Signal) : Pick := act (.setDir n .input)

/-- `Deassert(S)` (R134). -/
def deassertLine (n : Signal) : Pick :=
  act (if requestLine n then .setDir n .input else .write n (inactiveLevel n))

/-- `DriveOut(S, l)` with the inactive level: a shared line made an output "in its safe (deasserted) level" (R191). -/
def driveSafe (n : Signal) : Pick := act (.driveOut n (inactiveLevel n))

/-! ### Bus wrappers (41_bus_wrappers.md) -/

/-- AB.SETR body (R150). -/
def abSetrBody : Pick := fun s => if s.ab.writable then (0, .abSetReadable) else redundantStep s

/-- AB.SETW body (R151). -/
def abSetwBody : Pick := fun s => if s.ab.writable then redundantStep s else (0, .abSetWritable)

/-- AB.WRADDR body (R155): the flag alone decides it. -/
def abWraddrBody (a : Addr) : Pick := fun s =>
  if s.ab.writable then (0, .abLatch a) else (0, .log .errNotWritable)

/-- AB.WRIOADDR body (R157): the flag alone decides it. -/
def abWrioaddrBody (p : Byte) : Pick := fun s =>
  if s.ab.writable then (0, .abLatch (ioAddress s.params.ioHighByte s.ab.latch p)) else (0, .log .errNotWritable)

/-- DB.SETR body (R170). -/
def dbSetrBody : Pick := fun s => if s.db.writable then (0, .dbSetReadable) else redundantStep s

/-- DB.SETW body (R171). -/
def dbSetwBody : Pick := fun s => if s.db.writable then redundantStep s else (0, .dbSetWritable)

/-- DB.WR body (R175). -/
def dbWrBody (d : Byte) : Pick := fun s =>
  if s.db.writable then (0, .dbLatch d) else (0, .log .errNotWritable)

/-! ### Diagnostic strings -/

/-- The direction character of a bus (R159): `o` all output, `i` all input, `?` mixed. -/
def dirChar {n : Nat} (b : Bus n) : Char :=
  if b.mask = BitVec.allOnes n then 'o' else if b.mask = 0 then 'i' else '?'

/-- The mode character of a bus (R159). -/
def modeChar {n : Nat} (b : Bus n) : Char := if b.writable then 'w' else 'r'

/-- The low `k` bits of a value, most significant first, as '1' and '0' (R159). -/
def binaryText (v : Nat) : Nat → List Char
  | 0 => []
  | k + 1 => (if v / 2 ^ k % 2 = 1 then '1' else '0') :: binaryText v k

/-- The shape of the bus strings (R159, R176), for a four-letter prefix. -/
def busText {n : Nat} (tag : List Char) (b : Bus n) (lines : BitVec n) : List Char :=
  tag ++ ['<', dirChar b, '-', modeChar b, '>', '('] ++ binaryText lines.toNat n ++ [')']

/-- AB.STATE body: one micro-step, the sample `v <- lines(AB)`, and the string it gives (R159; that the characters of
the mask and the flag are read in that micro-step is log entry 22). -/
def abStateBody (s : State) : Except Fault (List Char × State) := do
  let (v, t) ← readStep 1 .sampleAb (fun s => s.abLines 0) s
  return (busText ['A', 'D', 'D', 'R'] t.ab v, t)

/-- DB.STATE body, likewise (R176; log entry 22). -/
def dbStateBody (s : State) : Except Fault (List Char × State) := do
  let (v, t) ← readStep 1 .sampleDb (fun s => s.dbLines 0) s
  return (busText ['D', 'A', 'T', 'A'] t.db v, t)

/-- Decimal, no leading zeros (45_queries_diagnostics.md R301, R303). -/
def decimalText (n : Nat) : List Char := Nat.toDigits 10 n

/-! ### Refresh (44_interrupt_refresh.md) -/

/-- BC.REFON body (R266). -/
def refonBody : Pick := fun s =>
  if s.mutable = false then (0, .log .errNotMutable)
  else if s.refreshConfigured = false then (0, .log .errNoTimer)
  else if s.refreshEnabled then redundantStep s
  else (0, .setRefresh true)

/-- BC.REFOFF body (R267). -/
def refoffBody : Pick := fun s => if s.refreshEnabled then (0, .setRefresh false) else redundantStep s

/-! ### What the target sees (43_bus_cycles.md R227) -/

/-- What the data lines show during a memory read cycle at `a` where BMC does not drive them: the byte the target
memory is known to hold in RAM_REGIONS, else the draw `k` (20_memory.md R66). -/
def State.targetByte (s : State) (a : Addr) (k : Nat) : Byte :=
  match (if inRegions s.params.ramRegions a then s.memory.read a.toNat else none) with
  | some d => d
  | none => BitVec.ofNat 8 (s.drawn k)

/-- The byte sampled by a memory read cycle: draw 0 is for the undriven address lines, draw 1 for the data lines. -/
def State.memSample (s : State) : Byte := s.db.lines (s.targetByte (s.abLines 0) 1)

/-- Performs the sample micro-step of a memory read cycle and gives the byte (R220). -/
def sampleMemory (s : State) : Except Fault (Byte × State) := do
  let (x, s) ← readStep 2 (fun x => .sampleMem x.1 x.2) (fun s => (s.abLines 0, s.memSample)) s
  return (x.2, s)

/-- Performs the sample micro-step of an I/O read cycle and gives the byte (R222); draws as in `memSample`. -/
def sampleIoPort (s : State) : Except Fault (Byte × State) := do
  let (x, s) ← readStep 2 (fun x => .sampleIo x.1 x.2) (fun s => (lowByte (s.abLines 0), s.dbLines 1)) s
  return (x.2, s)

/-- The target takes the byte of a memory write cycle: `MemWrite(lines(AB), 1, lines(DB))` (R227). It is the
environment's act within the hold before it (log entry 14). -/
def targetTakesByte (s : State) : State :=
  (((MicroStep.memWrite (s.abLines 0) (s.dbLines 1)).apply s).skip 2).record .environment
    (.memWrite (s.abLines 0) (s.dbLines 1))

/-- A device takes the byte of an I/O write cycle at port `lines(AB)[7:0]` (R227). -/
def deviceTakesByte (s : State) : State :=
  ((MicroStep.ioWrite (lowByte (s.abLines 0)) (s.dbLines 1)).apply s |>.skip 2).record .environment
    (.ioWrite (lowByte (s.abLines 0)) (s.dbLines 1))

/-! ### Single-byte cycles -/

/-- A cycle's address write. It is the wrapper's body, which the flag alone gates (20_memory.md R74, R155, R157), and is
rejected after AB.SETR, which clears the flag (R228). After a raw SP.ADIR that made every line an input and left the flag,
R74 and R155 let it through and R228 and R373 reject it: the parameter `releasedAddress` says which (log entry 23, DESIGN
CHOICE). -/
def cycleAddress (body : Pick) : Pick := fun s =>
  if s.ab.mask = 0 ∧ s.params.releasedAddress = .rejected then (0, .log .errNotWritable) else body s

/-- A single-byte cycle while Immutable: one error log (43_bus_cycles.md R224). -/
def rejectCycle (s : State) : Except Fault State := seq [logStep .errNotMutable] s

/-- BC.RDMEM body (R220), up to the response, with the byte it responds. -/
def rdmemBody (a : Addr) (s : State) : Except Fault (Byte × State) :=
  if s.mutable then do
    let s ← seq [act .check, act (.setMasked true), cycleAddress (abWraddrBody a),
      assertLine .ras, hold .tR1, assertLine .rd, hold .tR2, assertLine .mux, hold .tR3,
      assertLine .cas, hold .tR4] s
    let (d, s) ← sampleMemory s
    let s ← seq [deassertLine .cas, deassertLine .rd, deassertLine .ras, deassertLine .mux,
      act (.setMasked false)] s
    return (d, s)
  else do
    let s ← rejectCycle s
    return (0, s)

/-- BC.WRMEM body (R221). -/
def wrmemBody (a : Addr) (d : Byte) (s : State) : Except Fault State :=
  if s.mutable then do
    let s ← seq [act .check, act (.setMasked true), dbSetwBody, cycleAddress (abWraddrBody a), dbWrBody d,
      assertLine .ras, hold .tW1, assertLine .wr, hold .tW2, assertLine .mux, hold .tW3,
      assertLine .cas, hold .tW4] s
    seq [deassertLine .cas, deassertLine .wr, deassertLine .ras, deassertLine .mux, dbSetrBody,
      act (.setMasked false)] (targetTakesByte s)
  else rejectCycle s

/-- BC.RDIO body (R222), up to the response, with the byte it responds. -/
def rdioBody (p : Byte) (s : State) : Except Fault (Byte × State) :=
  if s.mutable then
    match s.params.ioShape with
    | .full => do
      let s ← seq [act .check, act (.setMasked true), cycleAddress (abWrioaddrBody p),
        assertLine .ras, hold .tIoR1, assertLine .ioIn, hold .tIoR2, assertLine .mux, hold .tIoR3,
        assertLine .cas, hold .tIoR4] s
      let (d, s) ← sampleIoPort s
      let s ← seq [deassertLine .cas, deassertLine .ioIn, deassertLine .ras, deassertLine .mux,
        act (.setMasked false)] s
      return (d, s)
    | .strobeOnly => do
      let s ← seq [act .check, act (.setMasked true), cycleAddress (abWrioaddrBody p),
        assertLine .ioIn, hold .tIoR2] s
      let (d, s) ← sampleIoPort s
      let s ← seq [deassertLine .ioIn, act (.setMasked false)] s
      return (d, s)
  else do
    let s ← rejectCycle s
    return (0, s)

/-- BC.WRIO body (R223). -/
def wrioBody (p d : Byte) (s : State) : Except Fault State :=
  if s.mutable then
    match s.params.ioShape with
    | .full => do
      let s ← seq [act .check, act (.setMasked true), dbSetwBody, cycleAddress (abWrioaddrBody p), dbWrBody d,
        assertLine .ras, hold .tIoW1, assertLine .ioOut, hold .tIoW2, assertLine .mux, hold .tIoW3,
        assertLine .cas, hold .tIoW4] s
      seq [deassertLine .cas, deassertLine .ioOut, deassertLine .ras, deassertLine .mux, dbSetrBody,
        act (.setMasked false)] (deviceTakesByte s)
    | .strobeOnly => do
      let s ← seq [act .check, act (.setMasked true), dbSetwBody, cycleAddress (abWrioaddrBody p), dbWrBody d,
        assertLine .ioOut, hold .tIoW2] s
      seq [deassertLine .ioOut, dbSetrBody, act (.setMasked false)] (deviceTakesByte s)
  else rejectCycle s

/-! ### Mastership -/

/-- BC.TESTOFF body (42_mastership.md R193). -/
def testoffBody (s : State) : Except Fault State :=
  if s.mutable then
    seq [act .check, refoffBody, act (.setMutable false),
      release .rd, release .wr, release .ioIn, release .ioOut, release .ras, release .cas, release .mux,
      dbSetrBody, abSetrBody, deassertLine .test, hold .tSettle] s
  else seq [logStep .wrnRedundant] s

/-- The releases of BC.INIT and BC.SHUTDOWN (45_queries_diagnostics.md R305, R306): every signal in id order, then both
buses, with no redundancy check. -/
def releaseAll : List Pick := allSignals.map release ++ [act .abSetReadable, act .dbSetReadable]

end Sys2Proof.Machine
end

