-- ==== Sys2Proof/Machine/BusCycles.lean ====
section
/-!
DEFINITION. The memory and I/O cycles and the bulk helpers (43_bus_cycles.md).
-/
namespace Sys2Proof.Machine

/-! ### Single-byte cycles -/

/-- BC.RDMEM (R220). DESIGN CHOICE (log entry 21): a refresh tick may run at the boundary between `masked <- false` and
the response, which 44_interrupt_refresh.md R270 admits and R220's corner case does not. -/
def execBcRdmem (addr : Addr) (s : State) : Host.Outcome State Fault Refusal :=
  command (fun s => do
    let (d, s) ← rdmemBody addr s
    seq [respond (.byte d)] s) s

/-- BC.WRMEM (R221). -/
def execBcWrmem (addr : Addr) (data : Byte) (s : State) : Host.Outcome State Fault Refusal :=
  command (wrmemBody addr data) s

/-- BC.RDIO (R222). DESIGN CHOICE (log entry 21): the boundary before the response is as in BC.RDMEM. -/
def execBcRdio (port : Byte) (s : State) : Host.Outcome State Fault Refusal :=
  command (fun s => do
    let (d, s) ← rdioBody port s
    seq [respond (.byte d)] s) s

/-- BC.WRIO (R223). -/
def execBcWrio (port data : Byte) (s : State) : Host.Outcome State Fault Refusal :=
  command (wrioBody port data) s

/-! ### Bulk helpers -/

/-- Reads the bytes at `a + k` for the indices in turn and gives them in that order (R230). -/
def readBytes (a : Addr) : List Nat → State → Except Fault (List Byte × State)
  | [], s => .ok ([], s)
  | k :: ks, s => do
    let (d, s) ← rdmemBody (bulkAddr a k) s
    let (ds, s) ← readBytes a ks s
    return (d :: ds, s)

/-- BC.RDMEMN (R230). The allocation draw is taken before any cycle. -/
def execBcRdmemn (addr : Addr) (len : BitVec 16) (s : State) : Host.Outcome State Fault Refusal :=
  command (fun s =>
    if len.toNat = 0 then seq [logStep .errContract, respond .null] s
    else if s.drawnBool 0 then seq [fun _ => (1, .log .errAlloc), respond .null] s
    else do
      let (ds, s) ← readBytes addr (List.range len.toNat) (s.skip 1)
      seq [respond (.bytes ds)] s) s

/-- BC.WRMEMN (R231), with the host buffer delivered with it; the bound is computed without wrap. -/
def execBcWrmemn (addr : Addr) (len offset : BitVec 16) (s : State) : Host.Outcome State Fault Refusal :=
  command (fun s =>
    match s.buffer with
    | none => seq [logStep .errContract] s
    | some buf =>
      if len.toNat = 0 then seq [logStep .errContract] s
      else if buf.length < offset.toNat + len.toNat then raise .buffer s
      else forEach (fun k => wrmemBody (bulkAddr addr k) (buf.getD (offset.toNat + k) 0)) (List.range len.toNat) s) s

/-- One byte of BC.COPY: a read cycle and a write cycle (R232). -/
def copyByte (src dst : Addr) (k : Nat) (s : State) : Except Fault State := do
  let (v, s) ← rdmemBody (bulkAddr src k) s
  wrmemBody (bulkAddr dst k) v s

/-- BC.COPY (R232). -/
def execBcCopy (src dst : Addr) (len : BitVec 16) (s : State) : Host.Outcome State Fault Refusal :=
  command (fun s =>
    if len.toNat = 0 then seq [logStep .errContract] s
    else do
      let s ← seq (if copyOverlap src dst len.toNat then [logStep .wrnOverlap] else []) s
      forEach (copyByte src dst) (copyOrder src dst len.toNat) s) s

/-- BC.FILL (R233). -/
def execBcFill (addr : Addr) (len : BitVec 16) (value : Byte) (s : State) : Host.Outcome State Fault Refusal :=
  command (fun s =>
    if len.toNat = 0 then seq [logStep .errContract] s
    else forEach (fun k => wrmemBody (bulkAddr addr k) value) (List.range len.toNat) s) s

end Sys2Proof.Machine
end

