-- ==== Sys2Proof/Machine/BusWrappers.lean ====
section
/-!
DEFINITION. The AddressBus and DataBus commands (41_bus_wrappers.md): one micro-step each, and before the response one
sample where the query reads lines (00_scope.md R9, log entry 22); no mutability gate.
-/
namespace Sys2Proof.Machine

/-- AB.SETR (R150). -/
def execAbSetr (s : State) : Host.Outcome State Fault Refusal := command (seq [abSetrBody]) s

/-- AB.SETW (R151). -/
def execAbSetw (s : State) : Host.Outcome State Fault Refusal := command (seq [abSetwBody]) s

/-- AB.ISR (R152). -/
def execAbIsr (s : State) : Host.Outcome State Fault Refusal :=
  command (seq [answer fun s => .bool (!s.ab.writable)]) s

/-- AB.ISW (R153). -/
def execAbIsw (s : State) : Host.Outcome State Fault Refusal :=
  command (seq [answer fun s => .bool s.ab.writable]) s

/-- AB.RDADDR (R154). -/
def execAbRdaddr (s : State) : Host.Outcome State Fault Refusal :=
  command (query 1 .sampleAb (fun s => s.abLines 0) .word) s

/-- AB.WRADDR (R155). -/
def execAbWraddr (addr : Addr) (s : State) : Host.Outcome State Fault Refusal :=
  command (seq [abWraddrBody addr]) s

/-- AB.RDIOADDR (R156). -/
def execAbRdioaddr (s : State) : Host.Outcome State Fault Refusal :=
  command (query 1 .sampleAb (fun s => s.abLines 0) fun v => .byte (lowByte v)) s

/-- AB.WRIOADDR (R157). -/
def execAbWrioaddr (port : Byte) (s : State) : Host.Outcome State Fault Refusal :=
  command (seq [abWrioaddrBody port]) s

/-- AB.WRREF (R158): the flag is not checked. -/
def execAbWrref (row : Byte) (s : State) : Host.Outcome State Fault Refusal :=
  command (seq [fun s => (0, .abLatch (withLowByte s.ab.latch row))]) s

/-- AB.STATE (R159). -/
def execAbState (s : State) : Host.Outcome State Fault Refusal :=
  command (fun s => do
    let (cs, s) ← abStateBody s
    seq [respond (.text cs)] s) s

/-- DB.SETR (R170). -/
def execDbSetr (s : State) : Host.Outcome State Fault Refusal := command (seq [dbSetrBody]) s

/-- DB.SETW (R171). -/
def execDbSetw (s : State) : Host.Outcome State Fault Refusal := command (seq [dbSetwBody]) s

/-- DB.ISR (R172). -/
def execDbIsr (s : State) : Host.Outcome State Fault Refusal :=
  command (seq [answer fun s => .bool (!s.db.writable)]) s

/-- DB.ISW (R173). -/
def execDbIsw (s : State) : Host.Outcome State Fault Refusal :=
  command (seq [answer fun s => .bool s.db.writable]) s

/-- DB.RD (R174). -/
def execDbRd (s : State) : Host.Outcome State Fault Refusal :=
  command (query 1 .sampleDb (fun s => s.dbLines 0) .byte) s

/-- DB.WR (R175). -/
def execDbWr (data : Byte) (s : State) : Host.Outcome State Fault Refusal := command (seq [dbWrBody data]) s

/-- DB.STATE (R176). -/
def execDbState (s : State) : Host.Outcome State Fault Refusal :=
  command (fun s => do
    let (cs, s) ← dbStateBody s
    seq [respond (.text cs)] s) s

end Sys2Proof.Machine
end

