-- ==== Sys2Proof/Machine/Diagnostics.lean ====
section
/-!
DEFINITION. Address classification, the controller string, the version, initialisation and shutdown
(45_queries_diagnostics.md).
-/
namespace Sys2Proof.Machine

/-! ### Address classification: pure range predicates over the map of 20_memory.md R63 -/

/-- IS.ROM (R290). -/
def execIsRom (addr : Addr) (s : State) : Host.Outcome State Fault Refusal :=
  command (seq [respond (.bool (inRange 0x0000 0x2FFF addr))]) s

/-- IS.UNUSED (R291). -/
def execIsUnused (addr : Addr) (s : State) : Host.Outcome State Fault Refusal :=
  command (seq [respond (.bool (inRange 0x3000 0x37DF addr))]) s

/-- IS.MMIO (R292). -/
def execIsMmio (addr : Addr) (s : State) : Host.Outcome State Fault Refusal :=
  command (seq [respond (.bool (inRange 0x37E0 0x37FF addr))]) s

/-- IS.KBD (R293). -/
def execIsKbd (addr : Addr) (s : State) : Host.Outcome State Fault Refusal :=
  command (seq [respond (.bool (inRange 0x3800 0x3BFF addr))]) s

/-- IS.VIDEO (R294). -/
def execIsVideo (addr : Addr) (s : State) : Host.Outcome State Fault Refusal :=
  command (seq [respond (.bool (inRange 0x3C00 0x3FFF addr))]) s

/-- IS.SYSMEM (R295). -/
def execIsSysmem (addr : Addr) (s : State) : Host.Outcome State Fault Refusal :=
  command (seq [respond (.bool (inRange 0x4000 0x41FF addr))]) s

/-- IS.LOEXP (R296). -/
def execIsLoexp (addr : Addr) (s : State) : Host.Outcome State Fault Refusal :=
  command (seq [respond (.bool (inRange 0x4200 0x7FFF addr))]) s

/-- IS.HIEXP (R297). -/
def execIsHiexp (addr : Addr) (s : State) : Host.Outcome State Fault Refusal :=
  command (seq [respond (.bool (inRange 0x8000 0xFFFF addr))]) s

/-! ### The controller string -/

/-- One signal of the controller string, with a leading space (R301). -/
def signalText (n : Signal) (d : Dir) (l : Level) : List Char :=
  ' ' :: signalName n ++ [':', if d = .output then 'o' else 'i', if l = .high then 'H' else 'L']

/-- The part of the controller string before the signals (R301). -/
def controllerHead (s : State) : List Char :=
  ['B', 'U', 'S', '<', if s.mutable then 'M' else 'I', '-', if s.refreshEnabled then 'E' else 'D', '-']
    ++ decimalText s.refreshRow.toNat ++ ['>']

/-- Samples the signals in turn, one micro-step each (00_scope.md R9), and gives their part of the controller string. -/
def signalTexts : List Signal → State → Except Fault (List Char × State)
  | [], s => .ok ([], s)
  | n :: ns, s => do
    let (l, s) ← readStep 1 (.sampleLine n) (fun s => s.lineLevel n 0) s
    let (cs, t) ← signalTexts ns s
    return (signalText n (s.line n).dir l ++ cs, t)

/-- BC.STATE (R301). DEDUCED (log entry 22): each `line(S)` and `lines(B)` is a micro-step of its own, as 00_scope.md R9
makes an environment sample, then the response is one; the mutability, refresh-enabled and refresh-row fields are read
at the first of them. Refresh ticks may so run between the row and the address lines. -/
def execBcState (s : State) : Host.Outcome State Fault Refusal :=
  command (fun s => do
    let (signals, t) ← signalTexts allSignals s
    let (address, t) ← abStateBody t
    let (data, t) ← dbStateBody t
    seq [respond (.text (controllerHead s ++ signals ++ ' ' :: address ++ ' ' :: data))] t) s

/-! ### Version -/

/-- VER (R302). -/
def execVer (s : State) : Host.Outcome State Fault Refusal :=
  command (seq [answer fun s =>
    .version s.params.versionMajor s.params.versionMinor s.params.versionRevision]) s

/-- The version string, the format "%d.%d.%d" (R303). -/
def versionText (p : Params) : List Char :=
  decimalText p.versionMajor ++ '.' :: decimalText p.versionMinor ++ '.' :: decimalText p.versionRevision

/-- VERSTR (R303). -/
def execVerstr (s : State) : Host.Outcome State Fault Refusal :=
  command (seq [answer fun s => .text (versionText s.params)]) s

/-! ### Initialise and shutdown -/

/-- BC.INIT (R305). -/
def execBcInit (rc : Bool) (s : State) : Host.Outcome State Fault Refusal :=
  command (fun s =>
    if s.mutable then seq [logStep .errContract] s
    else seq (releaseAll ++ [act (.setConfigured rc)]) s) s

/-- BC.SHUTDOWN (R306). -/
def execBcShutdown (s : State) : Host.Outcome State Fault Refusal :=
  command (fun s => (if s.mutable then testoffBody s else .ok s) >>= seq releaseAll) s

end Sys2Proof.Machine
end

