-- ==== Sys2Proof/Machine/Interrupt.lean ====
section
/-!
DEFINITION. The interrupt handshake and the refresh commands (44_interrupt_refresh.md).
-/
namespace Sys2Proof.Machine

/-- Polls INT_ACK at most `n` times, one sample a poll, with a hold after each poll that finds it high (R260); the
answer is whether it was acknowledged. -/
def pollIntAck : Nat → State → Except Fault (Bool × State)
  | 0, s => .ok (false, s)
  | n + 1, s => do
    let (l, s) ← readStep 1 (.sampleLine .intAck) (fun s => s.lineLevel .intAck 0) s
    if l = .low then return (true, s)
    else do
      let s ← micro false (hold .tPoll) s
      pollIntAck n s

/-- BC.INT (R260). The four micro-steps marked `true` are those during which the safety predicate exempts the data bus
(60_exceptions.md R334 (c)). -/
def execBcInt (code : Byte) (tmo : BitVec 16) (s : State) : Host.Outcome State Fault Refusal :=
  command (fun s =>
    if s.gatedOut then seq [logStep .errNotMutable, respond (.bool false)] s
    else do
      let s ← seq [assertLine .int] s
      let (acked, s) ← pollIntAck tmo.toNat s
      if acked then do
        let s ← micro true dbSetwBody s
        let s ← micro true (dbWrBody code) s
        let s ← micro true (hold .tIntData) s
        let s ← micro true (deassertLine .int) s
        seq [dbSetrBody, respond (.bool true)] s
      else seq [deassertLine .int, logStep .errIntTimeout, respond (.bool false)] s) s

/-- BC.REFON (R266). -/
def execBcRefon (s : State) : Host.Outcome State Fault Refusal := command (seq [refonBody]) s

/-- BC.REFOFF (R267). -/
def execBcRefoff (s : State) : Host.Outcome State Fault Refusal := command (seq [refoffBody]) s

end Sys2Proof.Machine
end

