-- ==== Sys2Proof/Machine/Mastership.lean ====
section
/-!
DEFINITION. Bus mastership (TEST), WAIT and the controller queries (42_mastership.md).
-/
namespace Sys2Proof.Machine

/-- BC.TESTON (R191). The last step, the BC.REFON body, is there only when a refresh timer mode was configured; no
micro-step of the command writes `refreshConfigured`. -/
def execBcTeston (s : State) : Host.Outcome State Fault Refusal :=
  command (fun s =>
    if s.mutable then seq [logStep .wrnRedundant] s
    else seq ([act .check, assertLine .test, hold .tSettle, fun s => (1, .grant (s.drawnBool 0)),
        abSetwBody, dbSetrBody,
        driveSafe .ras, driveSafe .cas, driveSafe .mux, driveSafe .rd, driveSafe .wr, driveSafe .ioIn,
        driveSafe .ioOut, act (.setMutable true)]
      ++ (if s.refreshConfigured then [refonBody] else [])) s) s

/-- BC.TESTOFF (R193). -/
def execBcTestoff (s : State) : Host.Outcome State Fault Refusal := command testoffBody s

/-- BC.WAITON (R195). -/
def execBcWaiton (s : State) : Host.Outcome State Fault Refusal :=
  command (seq [fun s =>
    if s.gatedOut then (0, .log .errNotMutable)
    else if s.waitActive then (0, .log .wrnRedundant)
    else assertLine .wait s]) s

/-- BC.WAITOFF (R196): never gated. -/
def execBcWaitoff (s : State) : Host.Outcome State Fault Refusal :=
  command (seq [fun s => if s.waitActive then deassertLine .wait s else (0, .log .wrnRedundant)]) s

/-- BC.ISMUT (R197). -/
def execBcIsmut (s : State) : Host.Outcome State Fault Refusal :=
  command (seq [answer fun s => .bool s.mutable]) s

/-- BC.ISREF (R198). -/
def execBcIsref (s : State) : Host.Outcome State Fault Refusal :=
  command (seq [answer fun s => .bool s.refreshEnabled]) s

/-- BC.ROW (R199). -/
def execBcRow (s : State) : Host.Outcome State Fault Refusal :=
  command (seq [answer fun s => .row s.refreshRow]) s

end Sys2Proof.Machine
end

