-- ==== Sys2Proof/Machine/SignalPort.lean ====
section
/-!
DEFINITION. The SignalPort commands (40_signal_port.md): one state micro-step each, and a response micro-step for a query;
no gate, no log (R120).
-/
namespace Sys2Proof.Machine

/-- SP.DIR (R121). -/
def execSpDir (sig : BitVec 4) (dir : Dir) (s : State) : Host.Outcome State Fault Refusal :=
  command (onSignal sig fun n => seq [act (.setDir n dir)]) s

/-- SP.SET (R122). -/
def execSpSet (sig : BitVec 4) (lvl : Level) (s : State) : Host.Outcome State Fault Refusal :=
  command (onSignal sig fun n => seq [act (.write n lvl)]) s

/-- SP.GET (R123). -/
def execSpGet (sig : BitVec 4) (s : State) : Host.Outcome State Fault Refusal :=
  command (onSignal sig fun n => query 1 (.sampleLine n) (fun s => s.lineLevel n 0) .level) s

/-- SP.GETDIR (R124). -/
def execSpGetdir (sig : BitVec 4) (s : State) : Host.Outcome State Fault Refusal :=
  command (onSignal sig fun n => query 0 (.readDir n) (fun s => (s.line n).dir) .dir) s

/-- SP.ADIR (R126, 10_state.md R33). The flag `AB.writable` is left; what a cycle makes of the mask is `cycleAddress`. -/
def execSpAdir (mask : BitVec 16) (s : State) : Host.Outcome State Fault Refusal :=
  command (seq [act (.abMask mask)]) s

/-- SP.AOUT (R127). -/
def execSpAout (value : BitVec 16) (s : State) : Host.Outcome State Fault Refusal :=
  command (seq [act (.abLatch value)]) s

/-- SP.AIN (R128). -/
def execSpAin (s : State) : Host.Outcome State Fault Refusal :=
  command (query 1 .sampleAb (fun s => s.abLines 0) .word) s

/-- SP.AGETDIR (R129). -/
def execSpAgetdir (s : State) : Host.Outcome State Fault Refusal :=
  command (query 0 .readAbMask (fun s => s.ab.mask) .word) s

/-- SP.DDIR (R130). -/
def execSpDdir (mask : BitVec 8) (s : State) : Host.Outcome State Fault Refusal :=
  command (seq [act (.dbMask mask)]) s

/-- SP.DOUT (R131). -/
def execSpDout (value : BitVec 8) (s : State) : Host.Outcome State Fault Refusal :=
  command (seq [act (.dbLatch value)]) s

/-- SP.DIN (R132). -/
def execSpDin (s : State) : Host.Outcome State Fault Refusal :=
  command (query 1 .sampleDb (fun s => s.dbLines 0) .byte) s

/-- SP.DGETDIR (R133). -/
def execSpDgetdir (s : State) : Host.Outcome State Fault Refusal :=
  command (query 0 .readDbMask (fun s => s.db.mask) .byte) s

end Sys2Proof.Machine
end

