-- ==== Sys2Proof/Machine/Dispatch.lean ====
section
/-!
DEFINITION. One arm per command of the opcode map (30_encoding.md R103), each one call of its meaning.
-/
namespace Sys2Proof.Machine

/-- Executes one command, whole (R90). -/
def exec (i : Instr) (s : State) : Host.Outcome State Fault Refusal :=
  match i with
  | .spDir sig dir => Sys2Proof.Machine.execSpDir sig dir s
  | .spSet sig lvl => Sys2Proof.Machine.execSpSet sig lvl s
  | .spGet sig => Sys2Proof.Machine.execSpGet sig s
  | .spGetdir sig => Sys2Proof.Machine.execSpGetdir sig s
  | .spAdir mask => Sys2Proof.Machine.execSpAdir mask s
  | .spAout value => Sys2Proof.Machine.execSpAout value s
  | .spAin => Sys2Proof.Machine.execSpAin s
  | .spAgetdir => Sys2Proof.Machine.execSpAgetdir s
  | .spDdir mask => Sys2Proof.Machine.execSpDdir mask s
  | .spDout value => Sys2Proof.Machine.execSpDout value s
  | .spDin => Sys2Proof.Machine.execSpDin s
  | .spDgetdir => Sys2Proof.Machine.execSpDgetdir s
  | .abSetr => Sys2Proof.Machine.execAbSetr s
  | .abSetw => Sys2Proof.Machine.execAbSetw s
  | .abIsr => Sys2Proof.Machine.execAbIsr s
  | .abIsw => Sys2Proof.Machine.execAbIsw s
  | .abRdaddr => Sys2Proof.Machine.execAbRdaddr s
  | .abWraddr addr => Sys2Proof.Machine.execAbWraddr addr s
  | .abRdioaddr => Sys2Proof.Machine.execAbRdioaddr s
  | .abWrioaddr port => Sys2Proof.Machine.execAbWrioaddr port s
  | .abWrref row => Sys2Proof.Machine.execAbWrref row s
  | .abState => Sys2Proof.Machine.execAbState s
  | .dbSetr => Sys2Proof.Machine.execDbSetr s
  | .dbSetw => Sys2Proof.Machine.execDbSetw s
  | .dbIsr => Sys2Proof.Machine.execDbIsr s
  | .dbIsw => Sys2Proof.Machine.execDbIsw s
  | .dbRd => Sys2Proof.Machine.execDbRd s
  | .dbWr data => Sys2Proof.Machine.execDbWr data s
  | .dbState => Sys2Proof.Machine.execDbState s
  | .bcTeston => Sys2Proof.Machine.execBcTeston s
  | .bcTestoff => Sys2Proof.Machine.execBcTestoff s
  | .bcWaiton => Sys2Proof.Machine.execBcWaiton s
  | .bcWaitoff => Sys2Proof.Machine.execBcWaitoff s
  | .bcIsmut => Sys2Proof.Machine.execBcIsmut s
  | .bcIsref => Sys2Proof.Machine.execBcIsref s
  | .bcRow => Sys2Proof.Machine.execBcRow s
  | .bcRdmem addr => Sys2Proof.Machine.execBcRdmem addr s
  | .bcWrmem addr data => Sys2Proof.Machine.execBcWrmem addr data s
  | .bcRdio port => Sys2Proof.Machine.execBcRdio port s
  | .bcWrio port data => Sys2Proof.Machine.execBcWrio port data s
  | .bcRdmemn addr len => Sys2Proof.Machine.execBcRdmemn addr len s
  | .bcWrmemn addr len offset => Sys2Proof.Machine.execBcWrmemn addr len offset s
  | .bcCopy src dst len => Sys2Proof.Machine.execBcCopy src dst len s
  | .bcFill addr len value => Sys2Proof.Machine.execBcFill addr len value s
  | .bcInt code tmo => Sys2Proof.Machine.execBcInt code tmo s
  | .bcRefon => Sys2Proof.Machine.execBcRefon s
  | .bcRefoff => Sys2Proof.Machine.execBcRefoff s
  | .isRom addr => Sys2Proof.Machine.execIsRom addr s
  | .isUnused addr => Sys2Proof.Machine.execIsUnused addr s
  | .isMmio addr => Sys2Proof.Machine.execIsMmio addr s
  | .isKbd addr => Sys2Proof.Machine.execIsKbd addr s
  | .isVideo addr => Sys2Proof.Machine.execIsVideo addr s
  | .isSysmem addr => Sys2Proof.Machine.execIsSysmem addr s
  | .isLoexp addr => Sys2Proof.Machine.execIsLoexp addr s
  | .isHiexp addr => Sys2Proof.Machine.execIsHiexp addr s
  | .bcState => Sys2Proof.Machine.execBcState s
  | .ver => Sys2Proof.Machine.execVer s
  | .verstr => Sys2Proof.Machine.execVerstr s
  | .bcInit rc => Sys2Proof.Machine.execBcInit rc s
  | .bcShutdown => Sys2Proof.Machine.execBcShutdown s

end Sys2Proof.Machine
end

