-- ==== Sys2Proof/WellFormed.lean ====
section
/-!
DEFINITION. Which terms of `Instr` are commands of the spec: every operand field holds every value, but SIG is a signal
id, 0 to 11 (30_encoding.md R102, R104).
-/
namespace Sys2Proof

/-- The check of 30_encoding.md R104 (c), constructor by constructor. The fields a format gives as 0 are not operands,
so no term can hold a nonzero one. -/
def Instr.wellFormed : Instr → Bool
  | .spDir sig _ => decide (sig.toNat < 12)
  | .spSet sig _ => decide (sig.toNat < 12)
  | .spGet sig => decide (sig.toNat < 12)
  | .spGetdir sig => decide (sig.toNat < 12)
  | .spAdir _ => true
  | .spAout _ => true
  | .spAin => true
  | .spAgetdir => true
  | .spDdir _ => true
  | .spDout _ => true
  | .spDin => true
  | .spDgetdir => true
  | .abSetr => true
  | .abSetw => true
  | .abIsr => true
  | .abIsw => true
  | .abRdaddr => true
  | .abWraddr _ => true
  | .abRdioaddr => true
  | .abWrioaddr _ => true
  | .abWrref _ => true
  | .abState => true
  | .dbSetr => true
  | .dbSetw => true
  | .dbIsr => true
  | .dbIsw => true
  | .dbRd => true
  | .dbWr _ => true
  | .dbState => true
  | .bcTeston => true
  | .bcTestoff => true
  | .bcWaiton => true
  | .bcWaitoff => true
  | .bcIsmut => true
  | .bcIsref => true
  | .bcRow => true
  | .bcRdmem _ => true
  | .bcWrmem _ _ => true
  | .bcRdio _ => true
  | .bcWrio _ _ => true
  | .bcRdmemn _ _ => true
  | .bcWrmemn _ _ _ => true
  | .bcCopy _ _ _ => true
  | .bcFill _ _ _ => true
  | .bcInt _ _ => true
  | .bcRefon => true
  | .bcRefoff => true
  | .isRom _ => true
  | .isUnused _ => true
  | .isMmio _ => true
  | .isKbd _ => true
  | .isVideo _ => true
  | .isSysmem _ => true
  | .isLoexp _ => true
  | .isHiexp _ => true
  | .bcState => true
  | .ver => true
  | .verstr => true
  | .bcInit _ => true
  | .bcShutdown => true

/-- A well-formed command. -/
abbrev WellFormed (i : Instr) : Prop := i.wellFormed = true

end Sys2Proof
end

