-- ==== Sys2Proof/Decode.lean ====
section
/-!
DEFINITION. The command encoding of 30_encoding.md: the decoder, total on any pair of words and rejecting by name
(R104, R105), and the encoder, written from the same format tables (R92 to R101, R103).
-/
namespace Sys2Proof

/-- Why a pair of words is no command (30_encoding.md R104). Every reason is handled as `FLT_ILLEGAL` (00_scope.md
R11). -/
inductive DecodeError
  /-- R104 (a): `OP` is not in the table of R103. -/
  | unknownOpcode
  /-- R104 (b): a field the format gives as 0 is not 0. -/
  | reservedField
  /-- R104 (c): `SIG ≥ 12` in format S1 or S2. -/
  | signalOutOfRange
  deriving DecidableEq, Repr

/-! ### Bit fields -/

/-- `w[hi:lo]` (00_scope.md R8), unsigned. -/
def bits (hi lo : Nat) (w : CommandWord) : Nat := w.toNat / 2 ^ lo % 2 ^ (hi + 1 - lo)

/-- `OP = W[31:24]` (R91). -/
def opcodeOf (w : CommandWord) : Nat := bits 31 24 w

/-- How many words the command of opcode `op` takes; only the opcode tells (R106). -/
def commandLength (op : Nat) : Nat := if op = 0x50 ∨ op = 0x51 ∨ op = 0x52 ∨ op = 0x53 then 2 else 1

/-- The direction a V bit stands for (R94). -/
def dirOfBit (v : Nat) : Dir := if v = 1 then .output else .input

/-- The level a V bit stands for (R94). -/
def levelOfBit (v : Nat) : Level := if v = 1 then .high else .low

/-- The V bit of a direction (R94, 10_state.md R22). -/
def Dir.bit : Dir → Nat
  | .input => 0
  | .output => 1

/-- The V bit of a level (R94, 10_state.md R23). -/
def Level.bit : Level → Nat
  | .low => 0
  | .high => 1

/-! ### The formats, read -/

/-- Format N (R92). -/
def decodeN (w : CommandWord) (i : Instr) : Except DecodeError Instr :=
  if bits 23 0 w = 0 then .ok i else .error .reservedField

/-- Format S1 (R93). -/
def decodeS1 (w : CommandWord) (mk : BitVec 4 → Instr) : Except DecodeError Instr :=
  if 12 ≤ bits 23 20 w then .error .signalOutOfRange
  else if bits 19 0 w = 0 then .ok (mk (BitVec.ofNat 4 (bits 23 20 w))) else .error .reservedField

/-- Format S2 (R94). -/
def decodeS2 (w : CommandWord) (mk : BitVec 4 → Nat → Instr) : Except DecodeError Instr :=
  if 12 ≤ bits 23 20 w then .error .signalOutOfRange
  else if bits 19 17 w = 0 ∧ bits 15 0 w = 0 then .ok (mk (BitVec.ofNat 4 (bits 23 20 w)) (bits 16 16 w))
  else .error .reservedField

/-- Format H16 (R95). -/
def decodeH16 (w : CommandWord) (mk : BitVec 16 → Instr) : Except DecodeError Instr :=
  if bits 23 16 w = 0 then .ok (mk (BitVec.ofNat 16 (bits 15 0 w))) else .error .reservedField

/-- Format H8 (R96). -/
def decodeH8 (w : CommandWord) (mk : BitVec 8 → Instr) : Except DecodeError Instr :=
  if bits 23 8 w = 0 then .ok (mk (BitVec.ofNat 8 (bits 7 0 w))) else .error .reservedField

/-- Format M (R97): `mk` is given A16 and D8. -/
def decodeM (w : CommandWord) (mk : BitVec 16 → BitVec 8 → Instr) : Except DecodeError Instr :=
  .ok (mk (BitVec.ofNat 16 (bits 15 0 w)) (BitVec.ofNat 8 (bits 23 16 w)))

/-- Format P (R98): `mk` is given P8 and D8. -/
def decodeP (w : CommandWord) (mk : BitVec 8 → BitVec 8 → Instr) : Except DecodeError Instr :=
  if bits 15 8 w = 0 then .ok (mk (BitVec.ofNat 8 (bits 7 0 w)) (BitVec.ofNat 8 (bits 23 16 w)))
  else .error .reservedField

/-- Format I (R99): `mk` is given CODE and TMO. -/
def decodeI (w : CommandWord) (mk : BitVec 8 → BitVec 16 → Instr) : Except DecodeError Instr :=
  .ok (mk (BitVec.ofNat 8 (bits 23 16 w)) (BitVec.ofNat 16 (bits 15 0 w)))

/-- Format R (R101). -/
def decodeR (w : CommandWord) (mk : Bool → Instr) : Except DecodeError Instr :=
  if bits 23 17 w = 0 ∧ bits 15 0 w = 0 then .ok (mk (decide (bits 16 16 w = 1))) else .error .reservedField

/-- Format B (R100), two words: `usesD8` and `usesX16` say which of D8 and X16 the command has as an operand; the other
must be zero. `mk` is given A16, D8, LEN and X16. -/
def decodeB (usesD8 usesX16 : Bool) (w w2 : CommandWord)
    (mk : BitVec 16 → BitVec 8 → BitVec 16 → BitVec 16 → Instr) : Except DecodeError Instr :=
  if (usesD8 = false ∧ bits 23 16 w ≠ 0) ∨ (usesX16 = false ∧ bits 15 0 w2 ≠ 0) then .error .reservedField
  else .ok (mk (BitVec.ofNat 16 (bits 15 0 w)) (BitVec.ofNat 8 (bits 23 16 w)) (BitVec.ofNat 16 (bits 31 16 w2))
    (BitVec.ofNat 16 (bits 15 0 w2)))

/-- The decoder: the opcode map of R103. `w2` is the second word, which only a format B command has (R106). -/
def decode (w w2 : CommandWord) : Except DecodeError Instr :=
  match opcodeOf w with
  | 0x01 => decodeS2 w fun sig v => .spDir sig (dirOfBit v)
  | 0x02 => decodeS2 w fun sig v => .spSet sig (levelOfBit v)
  | 0x03 => decodeS1 w .spGet
  | 0x04 => decodeS1 w .spGetdir
  | 0x05 => decodeH16 w .spAdir
  | 0x06 => decodeH16 w .spAout
  | 0x07 => decodeN w .spAin
  | 0x08 => decodeN w .spAgetdir
  | 0x09 => decodeH8 w .spDdir
  | 0x0A => decodeH8 w .spDout
  | 0x0B => decodeN w .spDin
  | 0x0C => decodeN w .spDgetdir
  | 0x10 => decodeN w .abSetr
  | 0x11 => decodeN w .abSetw
  | 0x12 => decodeN w .abIsr
  | 0x13 => decodeN w .abIsw
  | 0x14 => decodeN w .abRdaddr
  | 0x15 => decodeH16 w .abWraddr
  | 0x16 => decodeN w .abRdioaddr
  | 0x17 => decodeH8 w .abWrioaddr
  | 0x18 => decodeH8 w .abWrref
  | 0x19 => decodeN w .abState
  | 0x20 => decodeN w .dbSetr
  | 0x21 => decodeN w .dbSetw
  | 0x22 => decodeN w .dbIsr
  | 0x23 => decodeN w .dbIsw
  | 0x24 => decodeN w .dbRd
  | 0x25 => decodeH8 w .dbWr
  | 0x26 => decodeN w .dbState
  | 0x30 => decodeN w .bcTeston
  | 0x31 => decodeN w .bcTestoff
  | 0x32 => decodeN w .bcWaiton
  | 0x33 => decodeN w .bcWaitoff
  | 0x34 => decodeN w .bcIsmut
  | 0x35 => decodeN w .bcIsref
  | 0x36 => decodeN w .bcRow
  | 0x40 => decodeH16 w .bcRdmem
  | 0x41 => decodeM w fun a16 d8 => .bcWrmem a16 d8
  | 0x42 => decodeH8 w .bcRdio
  | 0x43 => decodeP w fun p8 d8 => .bcWrio p8 d8
  | 0x50 => decodeB false false w w2 fun a16 _ len _ => .bcRdmemn a16 len
  | 0x51 => decodeB false true w w2 fun a16 _ len x16 => .bcWrmemn a16 len x16
  | 0x52 => decodeB false true w w2 fun a16 _ len x16 => .bcCopy a16 x16 len
  | 0x53 => decodeB true false w w2 fun a16 d8 len _ => .bcFill a16 len d8
  | 0x60 => decodeI w fun code tmo => .bcInt code tmo
  | 0x61 => decodeN w .bcRefon
  | 0x62 => decodeN w .bcRefoff
  | 0x70 => decodeH16 w .isRom
  | 0x71 => decodeH16 w .isUnused
  | 0x72 => decodeH16 w .isMmio
  | 0x73 => decodeH16 w .isKbd
  | 0x74 => decodeH16 w .isVideo
  | 0x75 => decodeH16 w .isSysmem
  | 0x76 => decodeH16 w .isLoexp
  | 0x77 => decodeH16 w .isHiexp
  | 0x80 => decodeN w .bcState
  | 0x81 => decodeN w .ver
  | 0x82 => decodeN w .verstr
  | 0x83 => decodeR w .bcInit
  | 0x84 => decodeN w .bcShutdown
  | _ => .error .unknownOpcode

/-! ### The formats, written -/

/-- Format N (R92). -/
def wordN (op : Nat) : CommandWord := BitVec.ofNat 32 (op * 2 ^ 24)

/-- Format S1 (R93). -/
def wordS1 (op : Nat) (sig : BitVec 4) : CommandWord := BitVec.ofNat 32 (op * 2 ^ 24 + sig.toNat * 2 ^ 20)

/-- Format S2 (R94). -/
def wordS2 (op : Nat) (sig : BitVec 4) (v : Nat) : CommandWord :=
  BitVec.ofNat 32 (op * 2 ^ 24 + sig.toNat * 2 ^ 20 + v * 2 ^ 16)

/-- Format H16 (R95). -/
def wordH16 (op : Nat) (a16 : BitVec 16) : CommandWord := BitVec.ofNat 32 (op * 2 ^ 24 + a16.toNat)

/-- Format H8 (R96). -/
def wordH8 (op : Nat) (v8 : BitVec 8) : CommandWord := BitVec.ofNat 32 (op * 2 ^ 24 + v8.toNat)

/-- Format M (R97), and the first word of format B (R100). -/
def wordM (op : Nat) (a16 : BitVec 16) (d8 : BitVec 8) : CommandWord :=
  BitVec.ofNat 32 (op * 2 ^ 24 + d8.toNat * 2 ^ 16 + a16.toNat)

/-- Format P (R98). -/
def wordP (op : Nat) (p8 d8 : BitVec 8) : CommandWord := BitVec.ofNat 32 (op * 2 ^ 24 + d8.toNat * 2 ^ 16 + p8.toNat)

/-- Format I (R99). -/
def wordI (op : Nat) (code : BitVec 8) (tmo : BitVec 16) : CommandWord :=
  BitVec.ofNat 32 (op * 2 ^ 24 + code.toNat * 2 ^ 16 + tmo.toNat)

/-- Format R (R101). -/
def wordR (op : Nat) (rc : Bool) : CommandWord := BitVec.ofNat 32 (op * 2 ^ 24 + rc.toNat * 2 ^ 16)

/-- The second word of format B (R100). -/
def wordB2 (len x16 : BitVec 16) : CommandWord := BitVec.ofNat 32 (len.toNat * 2 ^ 16 + x16.toNat)

/-- The words of a command (R103); the second is 0 where the command has one word. -/
def encode : Instr → CommandWord × CommandWord
  | .spDir sig dir => (wordS2 0x01 sig dir.bit, 0)
  | .spSet sig lvl => (wordS2 0x02 sig lvl.bit, 0)
  | .spGet sig => (wordS1 0x03 sig, 0)
  | .spGetdir sig => (wordS1 0x04 sig, 0)
  | .spAdir mask => (wordH16 0x05 mask, 0)
  | .spAout value => (wordH16 0x06 value, 0)
  | .spAin => (wordN 0x07, 0)
  | .spAgetdir => (wordN 0x08, 0)
  | .spDdir mask => (wordH8 0x09 mask, 0)
  | .spDout value => (wordH8 0x0A value, 0)
  | .spDin => (wordN 0x0B, 0)
  | .spDgetdir => (wordN 0x0C, 0)
  | .abSetr => (wordN 0x10, 0)
  | .abSetw => (wordN 0x11, 0)
  | .abIsr => (wordN 0x12, 0)
  | .abIsw => (wordN 0x13, 0)
  | .abRdaddr => (wordN 0x14, 0)
  | .abWraddr addr => (wordH16 0x15 addr, 0)
  | .abRdioaddr => (wordN 0x16, 0)
  | .abWrioaddr port => (wordH8 0x17 port, 0)
  | .abWrref row => (wordH8 0x18 row, 0)
  | .abState => (wordN 0x19, 0)
  | .dbSetr => (wordN 0x20, 0)
  | .dbSetw => (wordN 0x21, 0)
  | .dbIsr => (wordN 0x22, 0)
  | .dbIsw => (wordN 0x23, 0)
  | .dbRd => (wordN 0x24, 0)
  | .dbWr data => (wordH8 0x25 data, 0)
  | .dbState => (wordN 0x26, 0)
  | .bcTeston => (wordN 0x30, 0)
  | .bcTestoff => (wordN 0x31, 0)
  | .bcWaiton => (wordN 0x32, 0)
  | .bcWaitoff => (wordN 0x33, 0)
  | .bcIsmut => (wordN 0x34, 0)
  | .bcIsref => (wordN 0x35, 0)
  | .bcRow => (wordN 0x36, 0)
  | .bcRdmem addr => (wordH16 0x40 addr, 0)
  | .bcWrmem addr data => (wordM 0x41 addr data, 0)
  | .bcRdio port => (wordH8 0x42 port, 0)
  | .bcWrio port data => (wordP 0x43 port data, 0)
  | .bcRdmemn addr len => (wordM 0x50 addr 0, wordB2 len 0)
  | .bcWrmemn addr len offset => (wordM 0x51 addr 0, wordB2 len offset)
  | .bcCopy src dst len => (wordM 0x52 src 0, wordB2 len dst)
  | .bcFill addr len value => (wordM 0x53 addr value, wordB2 len 0)
  | .bcInt code tmo => (wordI 0x60 code tmo, 0)
  | .bcRefon => (wordN 0x61, 0)
  | .bcRefoff => (wordN 0x62, 0)
  | .isRom addr => (wordH16 0x70 addr, 0)
  | .isUnused addr => (wordH16 0x71 addr, 0)
  | .isMmio addr => (wordH16 0x72 addr, 0)
  | .isKbd addr => (wordH16 0x73 addr, 0)
  | .isVideo addr => (wordH16 0x74 addr, 0)
  | .isSysmem addr => (wordH16 0x75 addr, 0)
  | .isLoexp addr => (wordH16 0x76 addr, 0)
  | .isHiexp addr => (wordH16 0x77 addr, 0)
  | .bcState => (wordN 0x80, 0)
  | .ver => (wordN 0x81, 0)
  | .verstr => (wordN 0x82, 0)
  | .bcInit rc => (wordR 0x83 rc, 0)
  | .bcShutdown => (wordN 0x84, 0)

/-! ### The host's view of the decoder -/

/-- The first command word of an instruction whose bits, numbered from the first word up, are `w`. -/
def firstWord (nbits w : Nat) : CommandWord := BitVec.ofNat 32 (w % 2 ^ nbits)

/-- Its second command word: bits 63..32. -/
def secondWord (nbits w : Nat) : CommandWord := BitVec.ofNat 32 (w % 2 ^ nbits / 2 ^ 32)

/-- The instruction the decoder reads from the `nbits` bits `w`. -/
def decodeTableWord (nbits w : Nat) : Option Instr :=
  match decode (firstWord nbits w) (secondWord nbits w) with
  | .ok i => some i
  | .error _ => none

end Sys2Proof
end

