-- ==== Sys2Proof/Machine/Fetch.lean ====
section
/-!
DEFINITION. Accepting a delivered command (30_encoding.md R90) and what stands on the command port.
-/
namespace Sys2Proof.Machine

/-- The state in which the delivery `d`, the first pending one, has been accepted: it has left the port, and its host
buffer is the current one. -/
def State.accept (d : Delivery) (s : State) : State := { s with pending := s.pending.drop 1, buffer := d.buffer }

/-- The command a delivery stands for. -/
def Delivery.decoded (d : Delivery) : Except DecodeError Instr := decode d.word d.word2

/-- The delivery of a one- or two-word command with no host buffer, from its bits. -/
def deliveryOfBits (nbits w : Nat) : Delivery where
  word := firstWord nbits w
  word2 := secondWord nbits w
  buffer := none

/-- `d` stands as the next delivery on the port, in the place of the one that stood there. -/
def State.deliver (d : Delivery) (s : State) : State := { s with pending := d :: s.pending.drop 1 }

end Sys2Proof.Machine
end

