-- ==== Sys2Proof/Machine/Step.lean ====
section
/-!
DEFINITION. One step of the machine: the boundary between two commands, where refresh ticks may run, then the next
delivered command, whole. With nothing delivered the foreground agent stays idle. After a fault nothing steps again.
-/
namespace Sys2Proof.Machine

/-- One step (00_scope.md R6, R9, R11; 44_interrupt_refresh.md R270; 60_exceptions.md R333). -/
def step (s : State) : Host.Outcome State Fault Refusal :=
  match s.fault with
  | some k => .fault (faultOf k s)
  | none =>
    match boundary s with
    | .error f => .fault f
    | .ok s =>
      match s.pending with
      | [] => .next s
      | d :: _ =>
        match d.decoded with
        | .error _ => .fault (faultOf .illegal { s.accept d with fault := some .illegal })
        | .ok i => exec i (s.accept d)

/-- `s` with the instruction whose `nbits` bits are `w` as the next delivered command. -/
def State.withFetchWord (s : State) (nbits w : Nat) : State := s.deliver (deliveryOfBits nbits w)

end Sys2Proof.Machine
end

