-- ==== Sys2Proof/Safety.lean ====
section
/-!
DEFINITION. What counts as a safe state, and the shapes the claims about commands are written in.
-/
namespace Sys2Proof.Machine

/-- No hazard stands for a foreground agent that is between commands (60_exceptions.md R334 without its item (c)). -/
abbrev Quiet (s : State) : Prop := s.idle.contention = false

/-- What every step keeps, between commands.
`refreshMutable` is R35 and R274 (a); `grantTest` is R37; `inputOnlyIn` is R22; `immutableReadable` is the flag half of
R33 while Immutable; `memoryWf` is the target memory's canonical form. -/
structure Inv (s : State) : Prop where
  idlePosition : s.position = 0
  idleDrive : s.intAckDrive = false
  unmasked : s.masked = false
  noFault : s.fault = none
  noContention : s.contention = false
  refreshMutable : s.refreshEnabled = true → s.mutable = true
  refreshConfigured : s.refreshEnabled = true → s.refreshConfigured = true
  inputOnlyIn : s.signals.sysRes.dir = .input ∧ s.signals.intAck.dir = .input
  grantTest : s.busGranted = true → s.asserted .test = true
  grantMutable : s.busGranted = true → s.mutable = true
  immutableReadable : s.mutable = false → s.ab.writable = false ∧ s.db.writable = false
  memoryWf : s.memory.wf = true

/-- A shared-control line as BC.TESTON leaves it: an output at its inactive level (42_mastership.md R192). -/
abbrev Resting (s : State) (n : Signal) : Prop := s.line n = ⟨.output, inactiveLevel n⟩

/-- The bus as BC.TESTON leaves it while `Mutable` (R192): granted, the address bus driven, the data bus readable, every
shared-control line deasserted. -/
structure BusHeld (s : State) : Prop where
  isMutable : s.mutable = true
  granted : s.busGranted = true
  abMask : s.ab.mask = 0xFFFF
  abWritable : s.ab.writable = true
  dbMask : s.db.mask = 0
  dbReadable : s.db.writable = false
  resting : ∀ n ∈ sharedSignals, Resting s n

/-- The states that BusController commands alone lead to: the invariant, and the bus held properly while `Mutable`. -/
structure Disciplined (s : State) : Prop where
  inv : Inv s
  held : s.mutable = true → BusHeld s

/-- The BusController commands: BC.*, IS.*, VER and VERSTR (60_exceptions.md R334). -/
def isControllerCommand : Instr → Bool
  | .spDir _ _ | .spSet _ _ | .spGet _ | .spGetdir _ | .spAdir _ | .spAout _ | .spAin | .spAgetdir | .spDdir _
  | .spDout _ | .spDin | .spDgetdir => false
  | .abSetr | .abSetw | .abIsr | .abIsw | .abRdaddr | .abWraddr _ | .abRdioaddr | .abWrioaddr _ | .abWrref _
  | .abState => false
  | .dbSetr | .dbSetw | .dbIsr | .dbIsw | .dbRd | .dbWr _ | .dbState => false
  | .bcTeston | .bcTestoff | .bcWaiton | .bcWaitoff | .bcIsmut | .bcIsref | .bcRow => true
  | .bcRdmem _ | .bcWrmem _ _ | .bcRdio _ | .bcWrio _ _ | .bcRdmemn _ _ | .bcWrmemn _ _ _ | .bcCopy _ _ _
  | .bcFill _ _ _ => true
  | .bcInt _ _ | .bcRefon | .bcRefoff => true
  | .isRom _ | .isUnused _ | .isMmio _ | .isKbd _ | .isVideo _ | .isSysmem _ | .isLoexp _ | .isHiexp _ => true
  | .bcState | .ver | .verstr | .bcInit _ | .bcShutdown => true

/-! ### Shapes of claims -/

/-- Command `i` is one micro-step at `s`: it takes `k` draws, makes the change `u`, and the trace records `m`. With no
hazard after it, the command completes in exactly that state (so everything `u` does not name is unchanged); with one,
the run ends in the fault `FLT_CONTENTION` after the micro-step (60_exceptions.md R333). -/
def OneStep (i : Instr) (s : State) (k : Nat) (m : MicroStep) (u : State → State) : Prop :=
  let t : State := ((u s.idle).skip k).record .foreground m
  (t.contention = false → exec i s = .next t) ∧
  (t.contention = true →
    exec i s = .fault (.contention { t with position := 1, fault := some .contention }))

/-- Where refresh is armed, RAS is an output, so that a tick can run (44_interrupt_refresh.md R271). -/
def TickReady (s : State) : Prop := s.refreshEnabled = true → s.signals.ras.dir = .output

/-- Command `i` only responds: with no hazard standing it completes in one micro-step, and the state is unchanged but for
the response `v` on the response channel. -/
def Answers (i : Instr) (v : State → Response) : Prop :=
  ∀ s : State, Quiet s → exec i s = .next (s.idle.record .foreground (.respond (v s)))

/-- `t` is `s` but for what refresh ticks write: `refreshRow`, `AB.latch[7:0]` and the level latch of RAS
(60_exceptions.md R343), the draws taken and the trace. -/
def State.sansTicks (s : State) : State :=
  { s with
    signals := { s.signals with ras := { s.signals.ras with lvl := .high } }
    ab := { s.ab with latch := s.ab.latch &&& 0xFF00 }
    refreshRow := 0
    inputs := []
    drawCount := 0
    trace := [] }

/-- `s` without its draws and its trace: the cells, the parameters, the target memory and the command port. -/
def State.sansTrace (s : State) : State := { s with inputs := [], drawCount := 0, trace := [] }

/-- Started at `s`, the command left `t`, which is `e` but for draws, trace and what refresh ticks write; and where
refresh was off at `s`, `e` but for draws and trace alone. -/
def Leaves (s e t : State) : Prop :=
  t.sansTicks = e.sansTicks ∧ (s.refreshEnabled = false → t.sansTrace = e.sansTrace)

/-- Command `i` is a query of two micro-steps, the read `m`, which takes `k` draws, and the response `v` of what it read:
with no hazard standing it completes, and changes nothing. Where a tick is enabled it can run between the two, and the
state is then unchanged but for what ticks write. -/
def Reads (i : Instr) (k : Nat) (m : State → MicroStep) (v : State → Response) : Prop :=
  ∀ s : State, Quiet s →
    (s.tickEnabled = false →
      exec i s = .next (((s.idle.skip k).record .foreground (m s)).record .foreground (.respond (v s)))) ∧
    (TickReady s → ∃ t, exec i s = .next t ∧
      t.foregroundSteps = s.foregroundSteps ++ [m s, .respond (v s)] ∧ Leaves s s.idle t)

/-- A micro-step that is a bus cycle the target sees (43_bus_cycles.md R227). -/
def isBusCycle : MicroStep → Bool
  | .sampleMem _ _ => true
  | .sampleIo _ _ => true
  | .memWrite _ _ => true
  | .ioWrite _ _ => true
  | _ => false

/-- The bus cycles of the run, oldest first. -/
def State.busCycles (s : State) : List MicroStep := s.foregroundSteps.filter isBusCycle

end Sys2Proof.Machine
end

