-- ==== Sys2Proof/Certificates/Slice0/Obligations.lean ====
section
/-!
DEFINITION. The statements for the provers, with the words they are written in: the spec's encoding tables, the states
that commands leave, and the lists of micro-steps they perform, all written out from the spec and not from the meanings.
-/
namespace Sys2Proof.Claims
open Sys2Proof Sys2Proof.Machine

/-! ### Encodings, as the tables of 30_encoding.md write them -/

/-- `i` is a one-word command whose word is `w`. -/
abbrev Coded (i : Instr) (w : CommandWord) : Prop := encode i = (w, 0#32)

/-- The formats of 30_encoding.md R92 to R101. A format B command says which of D8 and X16 it has as an operand. -/
inductive Format
  | n
  | s1
  | s2
  | h16
  | h8
  | m
  | p
  | i
  | r
  | b (usesD8 usesX16 : Bool)
  deriving DecidableEq, Repr

/-- The format column of the opcode map (R103). -/
def formatOf (op : Nat) : Option Format :=
  if op = 0x01 ∨ op = 0x02 then some .s2
  else if op = 0x03 ∨ op = 0x04 then some .s1
  else if op = 0x05 ∨ op = 0x06 ∨ op = 0x15 ∨ op = 0x40 then some .h16
  else if 0x70 ≤ op ∧ op ≤ 0x77 then some .h16
  else if op = 0x09 ∨ op = 0x0A ∨ op = 0x17 ∨ op = 0x18 ∨ op = 0x25 ∨ op = 0x42 then some .h8
  else if op = 0x41 then some .m
  else if op = 0x43 then some .p
  else if op = 0x60 then some .i
  else if op = 0x83 then some .r
  else if op = 0x50 then some (.b false false)
  else if op = 0x51 ∨ op = 0x52 then some (.b false true)
  else if op = 0x53 then some (.b true false)
  else if op = 0x07 ∨ op = 0x08 ∨ op = 0x0B ∨ op = 0x0C then some .n
  else if 0x10 ≤ op ∧ op ≤ 0x19 then some .n
  else if 0x20 ≤ op ∧ op ≤ 0x26 then some .n
  else if 0x30 ≤ op ∧ op ≤ 0x36 then some .n
  else if op = 0x61 ∨ op = 0x62 then some .n
  else if op = 0x80 ∨ op = 0x81 ∨ op = 0x82 ∨ op = 0x84 then some .n
  else none

/-- An illegal command word, with the word `w2` delivered after it (R104): the opcode is not in the map, a field its
format gives as 0 is not 0, or SIG is 12 or more. -/
def Illegal (w w2 : CommandWord) : Prop :=
  match formatOf (w.extractLsb' 24 8).toNat with
  | none => True
  | some .n => w.extractLsb' 0 24 ≠ 0
  | some .s1 => 12 ≤ (w.extractLsb' 20 4).toNat ∨ w.extractLsb' 0 20 ≠ 0
  | some .s2 => 12 ≤ (w.extractLsb' 20 4).toNat ∨ w.extractLsb' 17 3 ≠ 0 ∨ w.extractLsb' 0 16 ≠ 0
  | some .h16 => w.extractLsb' 16 8 ≠ 0
  | some .h8 => w.extractLsb' 8 16 ≠ 0
  | some .m => False
  | some .p => w.extractLsb' 8 8 ≠ 0
  | some .i => False
  | some .r => w.extractLsb' 17 7 ≠ 0 ∨ w.extractLsb' 0 16 ≠ 0
  | some (.b usesD8 usesX16) =>
    (usesD8 = false ∧ w.extractLsb' 16 8 ≠ 0) ∨ (usesX16 = false ∧ w2.extractLsb' 0 16 ≠ 0)

/-- The bit of a direction (R94). -/
def dirBit : Dir → BitVec 1
  | .input => 0#1
  | .output => 1#1

/-- The bit of a level (R94). -/
def levelBit : Level → BitVec 1
  | .low => 0#1
  | .high => 1#1

/-- Format S2: OP, SIG, three zero bits, V, sixteen zero bits (R94). -/
def s2Word (op : BitVec 8) (sig : BitVec 4) (v : BitVec 1) : CommandWord := op ++ sig ++ 0#3 ++ v ++ 0#16

/-- Format S1: OP, SIG, twenty zero bits (R93). -/
def s1Word (op : BitVec 8) (sig : BitVec 4) : CommandWord := op ++ sig ++ 0#20

/-- Format N: OP, 24 zero bits (R92). -/
def nWord (op : BitVec 8) : CommandWord := op ++ 0#24

/-- Format H16: OP, eight zero bits, A16 (R95). -/
def h16Word (op : BitVec 8) (a16 : BitVec 16) : CommandWord := op ++ 0#8 ++ a16

/-- Format H8: OP, sixteen zero bits, V8 (R96). -/
def h8Word (op v8 : BitVec 8) : CommandWord := op ++ 0#16 ++ v8

/-- Format M, and format I, and the first word of format B: OP, an 8-bit field, a 16-bit field (R97, R99, R100). -/
def mWord (op d8 : BitVec 8) (a16 : BitVec 16) : CommandWord := op ++ d8 ++ a16

/-- Format P: OP, D8, eight zero bits, P8 (R98). -/
def pWord (op d8 p8 : BitVec 8) : CommandWord := op ++ d8 ++ 0#8 ++ p8

/-- Format R: OP, seven zero bits, RC, sixteen zero bits (R101). -/
def rWord (op : BitVec 8) (rc : Bool) : CommandWord := op ++ 0#7 ++ BitVec.ofBool rc ++ 0#16

/-- The second word of format B: LEN, X16 (R100). -/
def b2Word (len x16 : BitVec 16) : CommandWord := len ++ x16

/-- The opcode map (R103), each command laid out in its format; the second word is 0 where there is none. -/
def layout : Instr → CommandWord × CommandWord
  | .spDir sig dir => (s2Word 0x01 sig (dirBit dir), 0)
  | .spSet sig lvl => (s2Word 0x02 sig (levelBit lvl), 0)
  | .spGet sig => (s1Word 0x03 sig, 0)
  | .spGetdir sig => (s1Word 0x04 sig, 0)
  | .spAdir mask => (h16Word 0x05 mask, 0)
  | .spAout value => (h16Word 0x06 value, 0)
  | .spAin => (nWord 0x07, 0)
  | .spAgetdir => (nWord 0x08, 0)
  | .spDdir mask => (h8Word 0x09 mask, 0)
  | .spDout value => (h8Word 0x0A value, 0)
  | .spDin => (nWord 0x0B, 0)
  | .spDgetdir => (nWord 0x0C, 0)
  | .abSetr => (nWord 0x10, 0)
  | .abSetw => (nWord 0x11, 0)
  | .abIsr => (nWord 0x12, 0)
  | .abIsw => (nWord 0x13, 0)
  | .abRdaddr => (nWord 0x14, 0)
  | .abWraddr addr => (h16Word 0x15 addr, 0)
  | .abRdioaddr => (nWord 0x16, 0)
  | .abWrioaddr port => (h8Word 0x17 port, 0)
  | .abWrref row => (h8Word 0x18 row, 0)
  | .abState => (nWord 0x19, 0)
  | .dbSetr => (nWord 0x20, 0)
  | .dbSetw => (nWord 0x21, 0)
  | .dbIsr => (nWord 0x22, 0)
  | .dbIsw => (nWord 0x23, 0)
  | .dbRd => (nWord 0x24, 0)
  | .dbWr data => (h8Word 0x25 data, 0)
  | .dbState => (nWord 0x26, 0)
  | .bcTeston => (nWord 0x30, 0)
  | .bcTestoff => (nWord 0x31, 0)
  | .bcWaiton => (nWord 0x32, 0)
  | .bcWaitoff => (nWord 0x33, 0)
  | .bcIsmut => (nWord 0x34, 0)
  | .bcIsref => (nWord 0x35, 0)
  | .bcRow => (nWord 0x36, 0)
  | .bcRdmem addr => (h16Word 0x40 addr, 0)
  | .bcWrmem addr data => (mWord 0x41 data addr, 0)
  | .bcRdio port => (h8Word 0x42 port, 0)
  | .bcWrio port data => (pWord 0x43 data port, 0)
  | .bcRdmemn addr len => (mWord 0x50 0 addr, b2Word len 0)
  | .bcWrmemn addr len offset => (mWord 0x51 0 addr, b2Word len offset)
  | .bcCopy src dst len => (mWord 0x52 0 src, b2Word len dst)
  | .bcFill addr len value => (mWord 0x53 value addr, b2Word len 0)
  | .bcInt code tmo => (mWord 0x60 code tmo, 0)
  | .bcRefon => (nWord 0x61, 0)
  | .bcRefoff => (nWord 0x62, 0)
  | .isRom addr => (h16Word 0x70 addr, 0)
  | .isUnused addr => (h16Word 0x71 addr, 0)
  | .isMmio addr => (h16Word 0x72 addr, 0)
  | .isKbd addr => (h16Word 0x73 addr, 0)
  | .isVideo addr => (h16Word 0x74 addr, 0)
  | .isSysmem addr => (h16Word 0x75 addr, 0)
  | .isLoexp addr => (h16Word 0x76 addr, 0)
  | .isHiexp addr => (h16Word 0x77 addr, 0)
  | .bcState => (nWord 0x80, 0)
  | .ver => (nWord 0x81, 0)
  | .verstr => (nWord 0x82, 0)
  | .bcInit rc => (rWord 0x83 rc, 0)
  | .bcShutdown => (nWord 0x84, 0)

/-! ### States -/

/-- `s` after the foreground agent took `k` draws and performed the micro-steps `ms`, as far as draws and the trace
show it; what the micro-steps write is in `s` already. -/
def logged (k : Nat) (ms : List MicroStep) (s : State) : State :=
  { s with
    inputs := s.inputs.drop k
    drawCount := s.drawCount + k
    trace := s.trace ++ ms.map fun m => ⟨.foreground, m⟩ }

/-- The environment's value on the undriven address lines, for the draw `k` (R29). -/
def abEnv (s : State) (k : Nat) : BitVec 16 := BitVec.ofNat 16 (s.drawn k)

/-- The environment's value on the undriven data lines, for the draw `k` (R29). -/
def dbEnv (s : State) (k : Nat) : BitVec 8 := BitVec.ofNat 8 (s.drawn k)

/-- `lines(B) = (B.latch AND B.mask) OR (Env AND NOT B.mask)` (R29). -/
def shown {n : Nat} (latch mask env : BitVec n) : BitVec n := (latch &&& mask) ||| (env &&& ~~~mask)

/-- The value on the address lines, its undriven bits those of draw 0 (R29). -/
def abShown (s : State) : BitVec 16 := shown s.ab.latch s.ab.mask (abEnv s 0)

/-- The value on the data lines, likewise (R29). -/
def dbShown (s : State) : BitVec 8 := shown s.db.latch s.db.mask (dbEnv s 0)

/-- `line(S)` for the draw `k` (R24). -/
def seen (s : State) (n : Signal) (k : Nat) : Level :=
  if (s.line n).dir = .output then (s.line n).lvl else s.drawnLevel k

/-- Every signal an input, its level latch as it was: the twelve `Release` micro-steps. -/
def released (c : Signals) : Signals where
  ras := ⟨.input, c.ras.lvl⟩
  cas := ⟨.input, c.cas.lvl⟩
  mux := ⟨.input, c.mux.lvl⟩
  rd := ⟨.input, c.rd.lvl⟩
  wr := ⟨.input, c.wr.lvl⟩
  ioIn := ⟨.input, c.ioIn.lvl⟩
  ioOut := ⟨.input, c.ioOut.lvl⟩
  int := ⟨.input, c.int.lvl⟩
  test := ⟨.input, c.test.lvl⟩
  wait := ⟨.input, c.wait.lvl⟩
  sysRes := ⟨.input, c.sysRes.lvl⟩
  intAck := ⟨.input, c.intAck.lvl⟩

/-- The signals as BC.TESTON leaves them: TEST asserted, the seven shared-control lines outputs at their inactive levels
(R191). -/
def taken (c : Signals) : Signals :=
  { c with
    test := ⟨.output, .low⟩
    ras := ⟨.output, .high⟩
    cas := ⟨.output, .high⟩
    mux := ⟨.output, .low⟩
    rd := ⟨.output, .high⟩
    wr := ⟨.output, .high⟩
    ioIn := ⟨.output, .high⟩
    ioOut := ⟨.output, .high⟩ }

/-- The signals as BC.TESTOFF leaves them: the shared-control lines and TEST inputs, INT, WAIT and the input-only lines
untouched (R193). -/
def givenBack (c : Signals) : Signals :=
  { c with
    test := ⟨.input, c.test.lvl⟩
    ras := ⟨.input, c.ras.lvl⟩
    cas := ⟨.input, c.cas.lvl⟩
    mux := ⟨.input, c.mux.lvl⟩
    rd := ⟨.input, c.rd.lvl⟩
    wr := ⟨.input, c.wr.lvl⟩
    ioIn := ⟨.input, c.ioIn.lvl⟩
    ioOut := ⟨.input, c.ioOut.lvl⟩ }

/-- The wrapper flags agree with the masks where the wrapper is readable (the half of R33 that handing the bus back
needs). -/
def ReadableUndriven (s : State) : Prop :=
  (s.ab.writable = false → s.ab.mask = 0) ∧ (s.db.writable = false → s.db.mask = 0)

/-! ### Strings -/

/-- The bits of a value as characters, most significant first (R159). -/
def bitChars {n : Nat} (v : BitVec n) : List Char :=
  (List.range n).map fun i => if v.getLsbD (n - 1 - i) then '1' else '0'

/-- The shape of AB.STATE and DB.STATE, for the lines' value `v` (R159, R176). -/
def busString {n : Nat} (tag : String) (b : Bus n) (v : BitVec n) : List Char :=
  tag.toList
    ++ ['<', if b.mask = BitVec.allOnes n then 'o' else if b.mask = 0 then 'i' else '?', '-',
        if b.writable then 'w' else 'r', '>', '(']
    ++ bitChars v ++ [')']

/-- Decimal, no leading zeros. -/
def decimal (k : Nat) : List Char := (Nat.repr k).toList

/-- The names of the signals in id order (R21, R301). -/
def signalNames : List (Signal × String) :=
  [(.ras, "RAS"), (.cas, "CAS"), (.mux, "MUX"), (.rd, "RD"), (.wr, "WR"), (.ioIn, "IN"), (.ioOut, "OUT"),
   (.int, "INT"), (.test, "TEST"), (.wait, "WAIT"), (.sysRes, "SYS_RES"), (.intAck, "INT_ACK")]

/-- The controller string (R301), for the levels `ls` sampled on the signals and the values `a` and `d` sampled on the
buses. -/
def controllerString (s : State) (ls : List Level) (a : Addr) (d : Byte) : List Char :=
  "BUS<".toList ++ [if s.mutable then 'M' else 'I', '-', if s.refreshEnabled then 'E' else 'D', '-']
    ++ decimal s.refreshRow.toNat ++ ['>']
    ++ (signalNames.zip ls).flatMap (fun ((n, name), l) =>
        [' '] ++ name.toList ++ [':', if (s.line n).dir = .output then 'o' else 'i', if l = .high then 'H' else 'L'])
    ++ [' '] ++ busString "ADDR" s.ab a ++ [' '] ++ busString "DATA" s.db d

/-- The micro-steps of BC.STATE (R301, R9): twelve samples of signals, one of each bus, and the response (log entry
22). -/
def stateSteps (s : State) (ls : List Level) (a : Addr) (d : Byte) : List MicroStep :=
  (signalNames.zip ls).map (fun ((n, _), l) => MicroStep.sampleLine n l)
    ++ [.sampleAb a, .sampleDb d, .respond (.text (controllerString s ls a d))]

/-- The levels BC.STATE samples where no tick runs, the draws in the order it reads the lines. -/
def sampledLevels (s : State) : List Level :=
  (signalNames.zip (List.range 12)).map fun ((n, _), k) => seen s n k

/-! ### Cycles -/

/-- A machine that can run bus cycles: `Mutable`, the bus granted, no read strobe asserted, and the named lines outputs
(R135, R334). -/
structure CycleReady (s : State) (lines : List Signal) : Prop where
  inv : Inv s
  isMutable : s.mutable = true
  granted : s.busGranted = true
  noRead : s.asserted .rd = false
  noIn : s.asserted .ioIn = false
  outputs : ∀ n ∈ lines, (s.line n).dir = .output
  tickReady : TickReady s

/-- The lines an I/O cycle strobes, `strobe` being IN or OUT (R222, R223, `IO_SHAPE`). -/
def ioLines (p : Params) (strobe : Signal) : List Signal :=
  match p.ioShape with
  | .full => [.ras, strobe, .mux, .cas]
  | .strobeOnly => [strobe]

/-- A cycle's address write goes through: the flag is true (20_memory.md R74, R155, R228), and, in the reading of R373 that
the parameter `releasedAddress` stands for, no raw SP.ADIR has made every address line an input. That the two readings
are a parameter is the model's choice (log entry 23). -/
def addressOpen (s : State) : Bool :=
  s.ab.writable && (s.ab.mask != 0 || s.params.releasedAddress == .written)

/-- The address micro-step of a memory cycle (R155, R228, R373). -/
def addressStep (s : State) (a : Addr) : MicroStep :=
  if addressOpen s then .abLatch a else .log .errNotWritable

/-- The latch value of an I/O address write (R157). -/
def ioLatch (s : State) (p : Byte) : Addr :=
  match s.params.ioHighByte with
  | .hold => s.ab.latch.extractLsb' 8 8 ++ p
  | .zero => p.setWidth 16

/-- The address micro-step of an I/O cycle (R157, R228, R373). -/
def portStep (s : State) (p : Byte) : MicroStep :=
  if addressOpen s then .abLatch (ioLatch s p) else .log .errNotWritable

/-- The DB.SETW micro-step of a write cycle (R171). -/
def setwStep (s : State) (b : Bool) : MicroStep := if s.db.writable then .redundant b else .dbSetWritable

/-- The strobes before the sample or the byte's taking: RAS, the strobe, MUX, CAS, each with its hold (R220 to R223). -/
def strobesOn (t : Timing) (strobe : Signal) (h1 h2 h3 h4 : Hold) : List MicroStep :=
  [.write .ras .low, .hold h1 (t.bound h1), .write strobe .low, .hold h2 (t.bound h2),
   .write .mux .high, .hold h3 (t.bound h3), .write .cas .low, .hold h4 (t.bound h4)]

/-- The deassertions: CAS, the strobe, RAS, MUX (R220 to R223). -/
def strobesOff (strobe : Signal) : List MicroStep :=
  [.write .cas .high, .write strobe .high, .write .ras .high, .write .mux .low]

/-- The micro-steps of BC.RDMEM while `Mutable` (R220): `x` is the address and `d` the byte at the sample. -/
def readSteps (s : State) (a x : Addr) (d : Byte) : List MicroStep :=
  List.flatten [[.check, .setMasked true, addressStep s a], strobesOn s.params.timing .rd .tR1 .tR2 .tR3 .tR4,
    [.sampleMem x d], strobesOff .rd, [.setMasked false, .respond (.byte d)]]

/-- The micro-steps of BC.WRMEM while `Mutable` (R221): `x` is the address and `y` the byte the target takes, where log
entry 14 says it does; `b` is the optional warning of a redundant DB.SETW. -/
def writeSteps (s : State) (a : Addr) (d : Byte) (x : Addr) (y : Byte) (b : Bool) : List MicroStep :=
  List.flatten [[.check, .setMasked true, setwStep s b, addressStep s a, .dbLatch d],
    strobesOn s.params.timing .wr .tW1 .tW2 .tW3 .tW4, [.memWrite x y], strobesOff .wr,
    [.dbSetReadable, .setMasked false]]

/-- The micro-steps of BC.RDIO while `Mutable` (R222). -/
def portReadSteps (s : State) (p x d : Byte) : List MicroStep :=
  match s.params.ioShape with
  | .full =>
    List.flatten [[.check, .setMasked true, portStep s p], strobesOn s.params.timing .ioIn .tIoR1 .tIoR2 .tIoR3 .tIoR4,
      [.sampleIo x d], strobesOff .ioIn, [.setMasked false, .respond (.byte d)]]
  | .strobeOnly =>
    [.check, .setMasked true, portStep s p, .write .ioIn .low, .hold .tIoR2 s.params.timing.tIoR2, .sampleIo x d,
     .write .ioIn .high, .setMasked false, .respond (.byte d)]

/-- The micro-steps of BC.WRIO while `Mutable` (R223). -/
def portWriteSteps (s : State) (p d x y : Byte) (b : Bool) : List MicroStep :=
  match s.params.ioShape with
  | .full =>
    List.flatten [[.check, .setMasked true, setwStep s b, portStep s p, .dbLatch d],
      strobesOn s.params.timing .ioOut .tIoW1 .tIoW2 .tIoW3 .tIoW4, [.ioWrite x y], strobesOff .ioOut,
      [.dbSetReadable, .setMasked false]]
  | .strobeOnly =>
    [.check, .setMasked true, setwStep s b, portStep s p, .dbLatch d, .write .ioOut .low,
     .hold .tIoW2 s.params.timing.tIoW2, .ioWrite x y, .write .ioOut .high, .dbSetReadable, .setMasked false]

/-- The strobed lines at rest again after a cycle. -/
def strobed (c : Signals) (strobe : Signal) : Signals :=
  (((c.set .cas ⟨.output, .high⟩).set strobe ⟨.output, .high⟩).set .ras ⟨.output, .high⟩).set .mux ⟨.output, .low⟩

/-- The lines a command's cycles assert (R220 to R223). -/
def strobesOf (p : Params) : Instr → List Signal
  | .bcRdmem _ => [.ras, .rd, .mux, .cas]
  | .bcWrmem _ _ => [.ras, .wr, .mux, .cas]
  | .bcRdio _ => ioLines p .ioIn
  | .bcWrio _ _ => ioLines p .ioOut
  | _ => []

/-- The byte at the memory address `x`, an address of RAM_REGIONS, is known to be `d` (R66). -/
def Holds (s : State) (x : Addr) (d : Byte) : Prop :=
  inRegions s.params.ramRegions x = true ∧ s.memory.read x.toNat = some d

/-- The target memory after the writes `ws`, in order: a write outside RAM_REGIONS is not kept (R66). -/
def writes (rs : List (Nat × Nat)) (ws : List (Addr × Byte)) (m : Memory) : Memory :=
  ws.foldl (fun m w => if inRegions rs w.1 then m.write w.1.toNat w.2 else m) m

/-- The address of the `k`-th byte of a bulk command (R234). -/
def nth (a : Addr) (k : Nat) : Addr := BitVec.ofNat 16 (a.toNat + k)

/-- The order in which BC.COPY copies its bytes: from high to low when the destination starts strictly inside the source,
modulo 2^16, else from low to high (R232). -/
def copyIndices (src dst : Addr) (n : Nat) : List Nat :=
  if dst ≠ src ∧ (dst - src).toNat < n then (List.range n).reverse else List.range n

/-- The address latch after a memory cycle's address write (R155, R228, R373). -/
def latchAfter (s : State) (a : Addr) : Addr := if addressOpen s then a else s.ab.latch

/-- The address latch after an I/O cycle's address write (R157, R228, R373). -/
def ioLatchAfter (s : State) (p : Byte) : Addr := if addressOpen s then ioLatch s p else s.ab.latch

/-- The data mask during a write cycle: DB.SETW makes a readable bus all output, and leaves a writable one as it is
(R171). -/
def writeMask (s : State) : BitVec 8 := if s.db.writable then s.db.mask else 0xFF

/-- The draws a write cycle takes before the target takes the byte: the optional warning of a redundant DB.SETW (log
entry 16). -/
def writeDraw (s : State) : Nat := if s.db.writable then 1 else 0

/-! ### The interrupt handshake -/

/-- `k` polls that find INT_ACK high, each with its hold (R260). -/
def polls (t : Timing) (k : Nat) : List MicroStep :=
  (List.replicate k [MicroStep.sampleLine .intAck .high, .hold .tPoll t.tPoll]).flatten

/-- The micro-steps of BC.INT when the acknowledgment comes at the poll after `k` others (R260). -/
def ackedSteps (s : State) (code : Byte) (k : Nat) (b : Bool) : List MicroStep :=
  .driveOut .int .low :: (polls s.params.timing k ++ ackSteps)
where
  ackSteps : List MicroStep :=
    [.sampleLine .intAck .low, setwStep s b, .dbLatch code, .hold .tIntData s.params.timing.tIntData,
     .setDir .int .input, .dbSetReadable, .respond (.bool true)]

/-- The micro-steps of BC.INT when no acknowledgment comes in `n` polls (R260). -/
def timeoutSteps (s : State) (n : Nat) : List MicroStep :=
  .driveOut .int .low :: (polls s.params.timing n ++ endSteps)
where
  endSteps : List MicroStep := [.setDir .int .input, .log .errIntTimeout, .respond (.bool false)]

/-! ### Mastership -/

/-- The micro-steps of BC.TESTON from `Immutable` (R191). The first is the passing check (log entry 15); `.grant` holds
the environment's word on the target memory (log entry 6). -/
def takeSteps (s : State) : List MicroStep :=
  let steps : List MicroStep :=
    [.check, .driveOut .test .low, .hold .tSettle s.params.timing.tSettle, .grant (s.drawnBool 0), .abSetWritable,
     .redundant (s.drawnBool 1), .driveOut .ras .high, .driveOut .cas .high, .driveOut .mux .low,
     .driveOut .rd .high, .driveOut .wr .high, .driveOut .ioIn .high, .driveOut .ioOut .high, .setMutable true]
  if s.refreshConfigured then steps ++ [.setRefresh true] else steps

/-- The micro-steps of BC.TESTOFF from `Mutable` (R193), the optional warnings being `b1`, `b2` and `b3`. -/
def giveBackSteps (s : State) (b1 b2 b3 : Bool) : List MicroStep :=
  [.check, if s.refreshEnabled then .setRefresh false else .redundant b1, .setMutable false,
   .setDir .rd .input, .setDir .wr .input, .setDir .ioIn .input, .setDir .ioOut .input,
   .setDir .ras .input, .setDir .cas .input, .setDir .mux .input,
   if s.db.writable then .dbSetReadable else .redundant b2,
   if s.ab.writable then .abSetReadable else .redundant b3,
   .setDir .test .input, .hold .tSettle s.params.timing.tSettle]

/-- The micro-steps that release every signal in id order and then both buses (R305, R306). -/
def releaseSteps : List MicroStep :=
  [.setDir .ras .input, .setDir .cas .input, .setDir .mux .input, .setDir .rd .input, .setDir .wr .input,
   .setDir .ioIn .input, .setDir .ioOut .input, .setDir .int .input, .setDir .test .input, .setDir .wait .input,
   .setDir .sysRes .input, .setDir .intAck .input, .abSetReadable, .dbSetReadable]

/-! ### The "written by" column of R20 -/

/-- The memory and I/O cycles and the bulk commands made of them. -/
def runsCycles : Instr → Bool
  | .bcRdmem _ | .bcWrmem _ _ | .bcRdio _ | .bcWrio _ _ => true
  | .bcRdmemn _ _ | .bcWrmemn _ _ _ | .bcCopy _ _ _ | .bcFill _ _ _ => true
  | _ => false

/-- Those of them that perform write cycles. -/
def runsWrites : Instr → Bool
  | .bcWrmem _ _ | .bcWrio _ _ | .bcWrmemn _ _ _ | .bcCopy _ _ _ | .bcFill _ _ _ => true
  | _ => false

/-- The commands that run the sequences of mastership and the releases of initialisation and shutdown. -/
def takesOrReleases : Instr → Bool
  | .bcTeston | .bcTestoff | .bcInit _ | .bcShutdown => true
  | _ => false

/-- Writers of `sig[n].dir`: SP.DIR; the TEST, WAIT and INT sequences; BC.INIT and BC.SHUTDOWN. -/
def writesDir : Instr → Signal → Bool
  | .spDir sig _, n => sig == signalField n
  | .bcTeston, n | .bcTestoff, n => n == .test || sharedSignals.contains n
  | .bcWaiton, n | .bcWaitoff, n => n == .wait
  | .bcInt _ _, n => n == .int
  | .bcInit _, _ | .bcShutdown, _ => true
  | _, _ => false

/-- Writers of `sig[n].lvl`, the refresh tick apart: SP.SET, and every sequence that asserts or deasserts the line by
its level. -/
def writesLevel : Instr → Signal → Bool
  | .spSet sig _, n => sig == signalField n
  | .bcTeston, n => n == .test || sharedSignals.contains n
  | .bcWaiton, n => n == .wait
  | .bcInt _ _, n => n == .int
  | .bcRdmem _, n | .bcRdmemn _ _, n => [Signal.ras, .rd, .mux, .cas].contains n
  | .bcWrmem _ _, n | .bcWrmemn _ _ _, n | .bcFill _ _ _, n => [Signal.ras, .wr, .mux, .cas].contains n
  | .bcCopy _ _ _, n => [Signal.ras, .rd, .wr, .mux, .cas].contains n
  | .bcRdio _, n => [Signal.ras, .ioIn, .mux, .cas].contains n
  | .bcWrio _ _, n => [Signal.ras, .ioOut, .mux, .cas].contains n
  | _, _ => false

/-- Writers of `AB.latch`, the refresh tick apart. -/
def writesAbLatch : Instr → Bool
  | .abWraddr _ | .abWrioaddr _ | .abWrref _ | .spAout _ => true
  | i => runsCycles i

/-- Writers of `AB.writable`. -/
def writesAbFlag : Instr → Bool
  | .abSetr | .abSetw => true
  | i => takesOrReleases i

/-- Writers of `AB.mask`. -/
def writesAbMask : Instr → Bool
  | .spAdir _ => true
  | i => writesAbFlag i

/-- Writers of `DB.latch`. -/
def writesDbLatch : Instr → Bool
  | .dbWr _ | .spDout _ | .bcInt _ _ => true
  | i => runsWrites i

/-- Writers of `DB.writable`: DB.SETR and DB.SETW, also inside other commands, BC.INIT and BC.SHUTDOWN. -/
def writesDbFlag : Instr → Bool
  | .dbSetr | .dbSetw | .bcInt _ _ => true
  | i => runsWrites i || takesOrReleases i

/-- Writers of `DB.mask`. -/
def writesDbMask : Instr → Bool
  | .spDdir _ => true
  | i => writesDbFlag i

/-- Writers of `refreshEnabled`. -/
def writesRefresh : Instr → Bool
  | .bcTeston | .bcTestoff | .bcShutdown | .bcRefon | .bcRefoff => true
  | _ => false

/-- Commands that write target memory, or give the host CPU's writes their chance (log entries 5 to 7). -/
def writesMemory : Instr → Bool
  | .bcTeston | .bcWrmem _ _ | .bcWrmemn _ _ _ | .bcCopy _ _ _ | .bcFill _ _ _ => true
  | _ => false

/-! ### Faults, runs and traces -/

/-- The state a fault holds: the one the run ended in. -/
def finalState : Fault → State
  | .illegal s => s
  | .writeInput s => s
  | .inputOnly s => s
  | .contention s => s
  | .buffer s => s

/-- The kind of a fault (R332). -/
def kindOf : Fault → FaultKind
  | .illegal _ => .illegal
  | .writeInput _ => .writeInput
  | .inputOnly _ => .inputOnly
  | .contention _ => .contention
  | .buffer _ => .buffer

/-- Whether every refresh micro-step of a trace falls where the tick is enabled and unmasked, `enabled` and `masked`
being what the foreground micro-steps before it left (R270, R274). -/
def interlocked : (enabled masked : Bool) → List Event → Bool
  | _, _, [] => true
  | en, mk, ⟨.refresh, _⟩ :: es => en && !mk && interlocked en mk es
  | _, mk, ⟨_, .setRefresh b⟩ :: es => interlocked b mk es
  | en, _, ⟨_, .setMasked b⟩ :: es => interlocked en b es
  | en, mk, _ :: es => interlocked en mk es

/-- How many refresh ticks of a trace reached the increment (R272). -/
def increments (es : List Event) : Nat := es.countP fun e => e == ⟨.refresh, .nextRow⟩

/-- The kinds of response R109 names; `silent` is no response. -/
inductive ResponseKind
  | silent
  | level
  | dir
  | bool
  | byte
  | row
  | word
  | bytesOrNull
  | text
  | version
  deriving DecidableEq, Repr

/-- The kind of response a command gives (R109). -/
def responseKind : Instr → ResponseKind
  | .spDir _ _ => .silent
  | .spSet _ _ => .silent
  | .spGet _ => .level
  | .spGetdir _ => .dir
  | .spAdir _ => .silent
  | .spAout _ => .silent
  | .spAin => .word
  | .spAgetdir => .word
  | .spDdir _ => .silent
  | .spDout _ => .silent
  | .spDin => .byte
  | .spDgetdir => .byte
  | .abSetr => .silent
  | .abSetw => .silent
  | .abIsr => .bool
  | .abIsw => .bool
  | .abRdaddr => .word
  | .abWraddr _ => .silent
  | .abRdioaddr => .byte
  | .abWrioaddr _ => .silent
  | .abWrref _ => .silent
  | .abState => .text
  | .dbSetr => .silent
  | .dbSetw => .silent
  | .dbIsr => .bool
  | .dbIsw => .bool
  | .dbRd => .byte
  | .dbWr _ => .silent
  | .dbState => .text
  | .bcTeston => .silent
  | .bcTestoff => .silent
  | .bcWaiton => .silent
  | .bcWaitoff => .silent
  | .bcIsmut => .bool
  | .bcIsref => .bool
  | .bcRow => .row
  | .bcRdmem _ => .byte
  | .bcWrmem _ _ => .silent
  | .bcRdio _ => .byte
  | .bcWrio _ _ => .silent
  | .bcRdmemn _ _ => .bytesOrNull
  | .bcWrmemn _ _ _ => .silent
  | .bcCopy _ _ _ => .silent
  | .bcFill _ _ _ => .silent
  | .bcInt _ _ => .bool
  | .bcRefon => .silent
  | .bcRefoff => .silent
  | .isRom _ => .bool
  | .isUnused _ => .bool
  | .isMmio _ => .bool
  | .isKbd _ => .bool
  | .isVideo _ => .bool
  | .isSysmem _ => .bool
  | .isLoexp _ => .bool
  | .isHiexp _ => .bool
  | .bcState => .text
  | .ver => .version
  | .verstr => .text
  | .bcInit _ => .silent
  | .bcShutdown => .silent

/-- Whether the responses `rs` are one of the kind, or none for `silent`. -/
def ofKind : ResponseKind → List Response → Prop
  | .silent, rs => rs = []
  | .level, rs => ∃ l, rs = [.level l]
  | .dir, rs => ∃ d, rs = [.dir d]
  | .bool, rs => ∃ b, rs = [.bool b]
  | .byte, rs => ∃ b, rs = [.byte b]
  | .row, rs => ∃ r, rs = [.row r]
  | .word, rs => ∃ w, rs = [.word w]
  | .bytesOrNull, rs => rs = [.null] ∨ ∃ bs, rs = [.bytes bs]
  | .text, rs => ∃ cs, rs = [.text cs]
  | .version, rs => ∃ a b c, rs = [.version a b c]

/-- BC.WRMEMN reaches beyond the host buffer (R231). -/
def beyondBuffer (i : Instr) (s : State) : Bool :=
  match i, s.buffer with
  | .bcWrmemn _ len off, some buf => decide (len.toNat ≠ 0) && decide (buf.length < off.toNat + len.toNat)
  | _, _ => false

/-- A delivery that stands for a BusController command (R334). -/
def FromController (d : Delivery) : Prop := ∃ i, d.decoded = .ok i ∧ isControllerCommand i = true

end Sys2Proof.Claims

open Sys2Proof Sys2Proof.Machine Sys2Proof.Claims

/-! ## Encoding -/

/-- R103, with R92 to R102: every command's words are its opcode and its operand fields, laid out as its format's table
lays them out, every field the format gives as 0 being 0. -/
def Obligations.WordsFollowFormatTables : Prop := ∀ i : Instr, encode i = layout i

/-- Every well-formed command is read back from its words, with every operand at every value its field admits. -/
def Obligations.DecodeOfEncode : Prop :=
  ∀ i : Instr, WellFormed i → decode (encode i).1 (encode i).2 = .ok i

/-- No bit of a decoded word is dropped: a word the decoder reads is the well-formed command's own first word, and the
second word, where the length (R106) says there is one, is its second word. -/
def Obligations.EncodeOfDecode : Prop :=
  ∀ (w w2 : CommandWord) (i : Instr), decode w w2 = .ok i →
    WellFormed i ∧ (encode i).1 = w ∧ (commandLength (opcodeOf w) = 2 → (encode i).2 = w2)

/-- R104 (with R105): exactly the illegal words are rejected, and one that is delivered performs no micro-step and ends
the run with `FLT_ILLEGAL`; `u` is the state at the boundary before the command is accepted. That the delivery has left
the port by then, and the third clause, which says the same of the SP commands as terms, whose SIG field may be 12 or
more, are the model's reading (log entry 10). -/
def Obligations.IllegalWords : Prop :=
  (∀ w w2 : CommandWord, (∃ e, decode w w2 = .error e) ↔ Illegal w w2) ∧
  (∀ (s u : State) (d : Delivery) (ds : List Delivery), s.fault = none → boundary s = .ok u → u.pending = d :: ds →
    Illegal d.word d.word2 →
    step s = .fault (.illegal { u with pending := ds, buffer := d.buffer, fault := some .illegal })) ∧
  ∀ (sig : BitVec 4) (s : State), 12 ≤ sig.toNat →
    (∀ d, exec (.spDir sig d) s = .fault (.illegal { s.idle with fault := some .illegal })) ∧
    (∀ l, exec (.spSet sig l) s = .fault (.illegal { s.idle with fault := some .illegal })) ∧
    exec (.spGet sig) s = .fault (.illegal { s.idle with fault := some .illegal }) ∧
    exec (.spGetdir sig) s = .fault (.illegal { s.idle with fault := some .illegal })

/-- R106: the opcode alone tells the length, and where it says one word the second word is not read. -/
def Obligations.LengthFromOpcode : Prop :=
  ∀ w : CommandWord,
    (commandLength (opcodeOf w) = if w.extractLsb' 24 8 ∈ [0x50#8, 0x51#8, 0x52#8, 0x53#8] then 2 else 1) ∧
    (commandLength (opcodeOf w) = 1 → ∀ w2 w2', decode w w2 = decode w w2')

/-- The example words of R107 are the commands written beside them. -/
def Obligations.ExampleWordsDecode : Prop :=
  decode 0x01810000 0 = .ok (.spDir 8 .output) ∧
  decode 0x02800000 0 = .ok (.spSet 8 .low) ∧
  decode 0x41413C00 0 = .ok (.bcWrmem 0x3C00 0x41) ∧
  decode 0x420000FF 0 = .ok (.bcRdio 0xFF) ∧
  decode 0x430800FF 0 = .ok (.bcWrio 0xFF 0x08) ∧
  decode 0x60C70064 0 = .ok (.bcInt 0xC7 100) ∧
  decode 0x52004000 0x00104001 = .ok (.bcCopy 0x4000 0x4001 16) ∧
  decode 0x53203C00 0x04000000 = .ok (.bcFill 0x3C00 1024 0x20) ∧
  decode 0x83010000 0 = .ok (.bcInit true)

/-! ## The step -/

/-- R90, R9: a step runs the refresh ticks of the boundary before the command (none where the tick is not enabled), and
then the first delivered command, whole, with its host buffer. -/
def Obligations.StepRunsDecodedCommand : Prop :=
  ∀ (s u : State) (d : Delivery) (ds : List Delivery) (i : Instr), s.fault = none → boundary s = .ok u →
    u.pending = d :: ds → decode d.word d.word2 = .ok i →
    step s = exec i { u with pending := ds, buffer := d.buffer } ∧
    (s.refreshEnabled = false ∨ s.masked = true → u = s)

/-- R270, R271, R342: between commands, with none delivered, only the refresh tick can step; where it is not enabled
nothing changes, and where it is, any number of ticks may run (the draw says how many), each advancing the row by one
and leaving everything but the row, A7..A0 of the latch and the level of RAS as it was. -/
def Obligations.IdleStepRunsTicks : Prop :=
  ∀ s : State, Inv s → s.pending = [] →
    (s.refreshEnabled = false → step s = .next s) ∧
    (s.refreshEnabled = true → s.signals.ras.dir = .output →
      ∃ t, step s = .next t ∧ t.sansTicks = s.sansTicks ∧ t.foregroundSteps = s.foregroundSteps ∧
        t.refreshRow.toNat = (s.refreshRow.toNat + s.drawn 0) % 128)

/-- R333, R40: once a fault is recorded nothing steps again and the fault is never cleared. -/
def Obligations.NoStepAfterFault : Prop :=
  ∀ (s : State) (k : FaultKind), s.fault = some k →
    ∃ f, step s = .fault f ∧ finalState f = s ∧ kindOf f = k

/-- R333: a fault records its kind. A contention fault holds the state after the micro-step that made the safety
predicate true; every other fault holds a state in which the predicate is false, the one before the micro-step. -/
def Obligations.FaultsRecordTheirKind : Prop :=
  ∀ (s : State) (f : Fault), Inv s → step s = .fault f →
    (finalState f).fault = some (kindOf f) ∧
    ((finalState f).contention = true ↔ kindOf f = .contention)

/-- The invariant `Inv` (R22, R35, R36, R37, R274 (a) among it) is kept by every step from every state that has it. -/
def Obligations.StepKeepsInv : Prop := ∀ s t : State, Inv s → step s = .next t → Inv t

/-- The state after reset has the invariant, with any parameters. -/
def Obligations.ResetMeetsInv : Prop := ∀ p : Params, Inv { State.reset with params := p }

/-- R45: the reset values the spec gives. The level latches, `AB.latch` and `DB.latch` are unspecified there, and nothing
is said of them; the last two equations say that the foreground agent is idle. -/
def Obligations.ResetValues : Prop :=
  (∀ n : Signal, (State.reset.line n).dir = .input) ∧
  State.reset.ab.mask = 0x0000 ∧ State.reset.ab.writable = false ∧
  State.reset.db.mask = 0x00 ∧ State.reset.db.writable = false ∧
  State.reset.mutable = false ∧ State.reset.refreshEnabled = false ∧ State.reset.refreshRow = 0 ∧
  State.reset.refreshConfigured = false ∧ State.reset.masked = false ∧ State.reset.busGranted = false ∧
  State.reset.fault = none ∧ State.reset.position = 0 ∧ State.reset.intAckDrive = false

/-! ## Rules of the whole machine -/

/-- The "written by" column of the table of R20, cell by cell, with R28, R32, R34 to R39: a command outside a cell's list
of writers leaves that cell as it was; what a refresh tick also writes (the level of RAS, A7..A0 of the latch) it leaves
where refresh was off, and the row moves by the ticks that ran during the command and by nothing else. `busGranted` is
set by BC.TESTON only, and falls exactly when TEST stops being asserted. No command clears or sets the fault cell. Of the
model's own fields, the target memory has its writers too (log entries 5 to 7), and no command touches the parameters,
the host's queue and buffer (log entries 4, 8). -/
def Obligations.CellsHaveTheirWriters : Prop :=
  ∀ (i : Instr) (s t : State), exec i s = .next t →
    (∀ n : Signal, writesDir i n = false → (t.line n).dir = (s.line n).dir) ∧
    (∀ n : Signal, writesLevel i n = false → (n = .ras → s.refreshEnabled = false) → (t.line n).lvl = (s.line n).lvl) ∧
    (writesAbLatch i = false →
      t.ab.latch &&& 0xFF00 = s.ab.latch &&& 0xFF00 ∧ (s.refreshEnabled = false → t.ab.latch = s.ab.latch)) ∧
    (writesAbMask i = false → t.ab.mask = s.ab.mask) ∧
    (writesAbFlag i = false → t.ab.writable = s.ab.writable) ∧
    (writesDbLatch i = false → t.db.latch = s.db.latch) ∧
    (writesDbMask i = false → t.db.mask = s.db.mask) ∧
    (writesDbFlag i = false → t.db.writable = s.db.writable) ∧
    (i ≠ .bcTeston → i ≠ .bcTestoff → i ≠ .bcShutdown → t.mutable = s.mutable) ∧
    (writesRefresh i = false → t.refreshEnabled = s.refreshEnabled) ∧
    (∃ es, t.trace = s.trace ++ es ∧
      t.refreshRow.toNat = (s.refreshRow.toNat + increments es) % 128) ∧
    ((∀ rc, i ≠ .bcInit rc) → t.refreshConfigured = s.refreshConfigured) ∧
    (runsCycles i = false → t.masked = s.masked) ∧ (s.masked = false → t.masked = false) ∧
    (i ≠ .bcTeston → s.busGranted = false → t.busGranted = false) ∧
    (s.busGranted = true → t.busGranted = false → t.asserted .test = false) ∧
    (s.asserted .test = true → t.asserted .test = false → t.busGranted = false) ∧
    t.fault = s.fault ∧ (writesMemory i = false → t.memory = s.memory) ∧
    t.params = s.params ∧ t.pending = s.pending ∧ t.buffer = s.buffer

/-- R109: every command gives exactly the response its kind says, or none. -/
def Obligations.ResponseKinds : Prop :=
  ∀ (i : Instr) (s t : State), exec i s = .next t →
    ∃ rs, t.responses = s.responses ++ rs ∧ ofKind (responseKind i) rs

/-- R270, R274 (b) and (c), R225, R70: in every step, refresh micro-steps fall only where refresh is armed and unmasked
at that point of the trace; so none falls inside the critical section of a cycle, and none after the micro-step that
disarms refresh. The section is left by the end of the step. -/
def Obligations.RefreshIsInterlocked : Prop :=
  ∀ s t : State, Inv s → step s = .next t →
    ∃ es, t.trace = s.trace ++ es ∧ interlocked s.refreshEnabled false es = true ∧ t.masked = false

/-- R334, its last sentence, with the bus held properly as the invariant: a BusController command, in a state that
BusController commands alone lead to, completes in such a state; it never makes the safety predicate true. Only
BC.WRMEMN beyond the host buffer does not complete (R231). -/
def Obligations.ControllerKeepsDiscipline : Prop :=
  ∀ (i : Instr) (s : State), isControllerCommand i = true → Disciplined s →
    (beyondBuffer i s = false → ∃ t, exec i s = .next t ∧ Disciplined t) ∧
    (beyondBuffer i s = true → exec i s = .fault (.buffer { s with fault := some .buffer }))

/-- R334: from reset, with any parameters and any environment, no sequence of BusController commands ends in
`FLT_CONTENTION`, or in any fault but that of a buffer that is too short. -/
def Obligations.ControllerSequencesAreSafe : Prop :=
  ∀ (p : Params) (xs : List Nat) (ds : List Delivery) (k : Nat), (∀ d ∈ ds, FromController d) →
    match Host.Core.run Sys2Proof.core k { State.reset with params := p, inputs := xs, pending := ds } with
    | .next t => Disciplined t
    | .fault f => kindOf f = .buffer
    | .refused _ => False

/-! ## The refresh tick -/

/-- R271: the tick writes the row on A7..A0, pulses RAS and advances the row modulo 128; it is rejected with a log while
Immutable, and is a fault where RAS is an input, after the row is on the latch. -/
def Obligations.RefreshTick : Prop :=
  ∀ s : State, s.contention = false →
    (s.mutable = false → tick s = .ok (s.record .refresh (.log .errNotMutable))) ∧
    (s.mutable = true → s.signals.ras.dir = .output →
      tick s = .ok { s with
        ab := { s.ab with latch := s.ab.latch.extractLsb' 8 8 ++ s.refreshRow.setWidth 8 }
        signals := { s.signals with ras := ⟨.output, .high⟩ }
        refreshRow := BitVec.ofNat 7 (s.refreshRow.toNat + 1)
        trace := s.trace ++ [⟨.refresh, .abLatch (s.ab.latch.extractLsb' 8 8 ++ s.refreshRow.setWidth 8)⟩,
          ⟨.refresh, .write .ras .low⟩, ⟨.refresh, .hold .tRefRas s.params.timing.tRefRas⟩,
          ⟨.refresh, .write .ras .high⟩, ⟨.refresh, .nextRow⟩] }) ∧
    (s.mutable = true → s.signals.ras.dir = .input →
      tick s = .error (.writeInput { s with
        ab := { s.ab with latch := s.ab.latch.extractLsb' 8 8 ++ s.refreshRow.setWidth 8 }
        trace := s.trace ++ [⟨.refresh, .abLatch (s.ab.latch.extractLsb' 8 8 ++ s.refreshRow.setWidth 8)⟩]
        fault := some .writeInput }))

/-- R272: `n` ticks move the row by `n` modulo 128, for any `n`; and they do run. -/
def Obligations.RowAfterTicks : Prop :=
  ∀ (n : Nat) (s : State), s.mutable = true → s.signals.ras.dir = .output → s.contention = false →
    ∃ t, runTicks n s = .ok t ∧ t.refreshRow.toNat = (s.refreshRow.toNat + n) % 128 ∧
      increments t.trace = increments s.trace + n

/-! ## SignalPort -/

/-- R123, R124 (with R120): SP.GET samples the line and then answers the level on it (the driven level of an output, a
draw for an input), SP.GETDIR reads the direction and then answers it. -/
def Obligations.SignalQueries : Prop :=
  ∀ n : Signal,
    (Coded (.spGet (signalField n)) (s1Word 0x03 (signalField n)) ∧
      Reads (.spGet (signalField n)) 1 (fun s => .sampleLine n (seen s n 0)) fun s => .level (seen s n 0)) ∧
    (Coded (.spGetdir (signalField n)) (s1Word 0x04 (signalField n)) ∧
      Reads (.spGetdir (signalField n)) 0 (fun s => .readDir n (s.line n).dir) fun s => .dir (s.line n).dir)

/-- R128, R129, R132, R133 (with R120): the raw bus reads and mask reads: one micro-step that reads, one that responds. -/
def Obligations.RawBusQueries : Prop :=
  (Coded .spAin (nWord 0x07) ∧ Reads .spAin 1 (fun s => .sampleAb (abShown s)) fun s => .word (abShown s)) ∧
  (Coded .spAgetdir (nWord 0x08) ∧ Reads .spAgetdir 0 (fun s => .readAbMask s.ab.mask) fun s => .word s.ab.mask) ∧
  (Coded .spDin (nWord 0x0B) ∧ Reads .spDin 1 (fun s => .sampleDb (dbShown s)) fun s => .byte (dbShown s)) ∧
  (Coded .spDgetdir (nWord 0x0C) ∧ Reads .spDgetdir 0 (fun s => .readDbMask s.db.mask) fun s => .byte s.db.mask)

/-- R121: SP.DIR writes the direction and nothing else, but that `busGranted` falls when TEST is no longer asserted; an
input-only line made an output is `FLT_INPUT_ONLY`, before the write; the safety check may end the run after it. -/
def Obligations.SetDirection : Prop :=
  ∀ (n : Signal) (d : Dir) (s : State),
    Coded (.spDir (signalField n) d) (s2Word 0x01 (signalField n) (dirBit d)) ∧
    (d = .output ∧ (n = .sysRes ∨ n = .intAck) →
      exec (.spDir (signalField n) d) s = .fault (.inputOnly { s.idle with fault := some .inputOnly })) ∧
    (¬ (d = .output ∧ (n = .sysRes ∨ n = .intAck)) →
      OneStep (.spDir (signalField n) d) s 0 (.setDir n d) fun s =>
        { s with
          signals := s.signals.set n ⟨d, (s.line n).lvl⟩
          busGranted := if n = .test ∧ ¬ (d = .output ∧ (s.line n).lvl = .low) then false else s.busGranted })

/-- R122: SP.SET writes the level of an output and nothing else, but that `busGranted` falls when TEST is no longer
asserted; on an input it is `FLT_WRITE_INPUT`, before the write. -/
def Obligations.SetLevel : Prop :=
  ∀ (n : Signal) (l : Level) (s : State),
    Coded (.spSet (signalField n) l) (s2Word 0x02 (signalField n) (levelBit l)) ∧
    ((s.line n).dir = .input →
      exec (.spSet (signalField n) l) s = .fault (.writeInput { s.idle with fault := some .writeInput })) ∧
    ((s.line n).dir = .output →
      OneStep (.spSet (signalField n) l) s 0 (.write n l) fun s =>
        { s with
          signals := s.signals.set n ⟨.output, l⟩
          busGranted := if n = .test ∧ l = .high then false else s.busGranted })

/-- R126, R130: SP.ADIR and SP.DDIR write the mask and nothing else; the run ends in contention exactly when lines are
driven while the bus is not granted, or, for the data bus, while a read strobe is asserted. R127, R131: SP.AOUT and
SP.DOUT write the latch and nothing else, whatever the flags and masks are. -/
def Obligations.RawBusWrites : Prop :=
  ∀ s : State, Quiet s →
    (∀ m : BitVec 16, Coded (.spAdir m) (h16Word 0x05 m) ∧
      (m = 0 ∨ s.busGranted = true →
        exec (.spAdir m) s = .next (logged 0 [.abMask m] { s.idle with ab := { s.ab with mask := m } })) ∧
      (m ≠ 0 ∧ s.busGranted = false →
        exec (.spAdir m) s = .fault (.contention (logged 0 [.abMask m]
          { s.idle with ab := { s.ab with mask := m }, position := 1, fault := some .contention })))) ∧
    (∀ m : BitVec 8, Coded (.spDdir m) (h8Word 0x09 m) ∧
      (m = 0 ∨ (s.busGranted = true ∧ s.asserted .rd = false ∧ s.asserted .ioIn = false) →
        exec (.spDdir m) s = .next (logged 0 [.dbMask m] { s.idle with db := { s.db with mask := m } })) ∧
      (m ≠ 0 ∧ (s.busGranted = false ∨ s.asserted .rd = true ∨ s.asserted .ioIn = true) →
        exec (.spDdir m) s = .fault (.contention (logged 0 [.dbMask m]
          { s.idle with db := { s.db with mask := m }, position := 1, fault := some .contention })))) ∧
    (∀ v : BitVec 16, Coded (.spAout v) (h16Word 0x06 v) ∧
      exec (.spAout v) s = .next (logged 0 [.abLatch v] { s.idle with ab := { s.ab with latch := v } })) ∧
    (∀ v : BitVec 8, Coded (.spDout v) (h8Word 0x0A v) ∧
      exec (.spDout v) s = .next (logged 0 [.dbLatch v] { s.idle with db := { s.db with latch := v } }))

/-! ## AddressBus and DataBus -/

/-- R152, R153, R172, R173: the flags of the wrappers. R154, R156, R174: their reads of their lines, a sample and a
response (log entry 22); an I/O address is A7..A0. -/
def Obligations.WrapperQueries : Prop :=
  (Coded .abIsr (nWord 0x12) ∧ Answers .abIsr fun s => .bool (!s.ab.writable)) ∧
  (Coded .abIsw (nWord 0x13) ∧ Answers .abIsw fun s => .bool s.ab.writable) ∧
  (Coded .dbIsr (nWord 0x22) ∧ Answers .dbIsr fun s => .bool (!s.db.writable)) ∧
  (Coded .dbIsw (nWord 0x23) ∧ Answers .dbIsw fun s => .bool s.db.writable) ∧
  (Coded .abRdaddr (nWord 0x14) ∧ Reads .abRdaddr 1 (fun s => .sampleAb (abShown s)) fun s => .word (abShown s)) ∧
  (Coded .abRdioaddr (nWord 0x16) ∧
    Reads .abRdioaddr 1 (fun s => .sampleAb (abShown s)) fun s => .byte ((abShown s).extractLsb' 0 8)) ∧
  (Coded .dbRd (nWord 0x24) ∧ Reads .dbRd 1 (fun s => .sampleDb (dbShown s)) fun s => .byte (dbShown s))

/-- R159, R176: the diagnostic strings of the buses: a sample of the lines and a response (log entry 22). -/
def Obligations.BusStrings : Prop :=
  (Coded .abState (nWord 0x19) ∧
    Reads .abState 1 (fun s => .sampleAb (abShown s)) fun s => .text (busString "ADDR" s.ab (abShown s))) ∧
  (Coded .dbState (nWord 0x26) ∧
    Reads .dbState 1 (fun s => .sampleDb (dbShown s)) fun s => .text (busString "DATA" s.db (dbShown s)))

/-- R150, R151: AB.SETR and AB.SETW switch mask and flag together; a redundant call changes nothing and may log. -/
def Obligations.AddressBusDirection : Prop :=
  Coded .abSetr (nWord 0x10) ∧ Coded .abSetw (nWord 0x11) ∧
  ∀ s : State, Quiet s →
    (s.ab.writable = false → exec .abSetr s = .next (logged 1 [.redundant (s.drawnBool 0)] s.idle)) ∧
    (s.ab.writable = true → exec .abSetr s = .next (logged 0 [.abSetReadable]
      { s.idle with ab := { s.ab with mask := 0x0000, writable := false } })) ∧
    (s.ab.writable = true → exec .abSetw s = .next (logged 1 [.redundant (s.drawnBool 0)] s.idle)) ∧
    (s.ab.writable = false → s.busGranted = true → exec .abSetw s = .next (logged 0 [.abSetWritable]
      { s.idle with ab := { s.ab with mask := 0xFFFF, writable := true } })) ∧
    (s.ab.writable = false → s.busGranted = false → exec .abSetw s = .fault (.contention (logged 0 [.abSetWritable]
      { s.idle with
        ab := { s.ab with mask := 0xFFFF, writable := true }, position := 1, fault := some .contention })))

/-- R170, R171: DB.SETR and DB.SETW likewise; the data bus may also not be driven while a read strobe is asserted. -/
def Obligations.DataBusDirection : Prop :=
  Coded .dbSetr (nWord 0x20) ∧ Coded .dbSetw (nWord 0x21) ∧
  ∀ s : State, Quiet s →
    (s.db.writable = false → exec .dbSetr s = .next (logged 1 [.redundant (s.drawnBool 0)] s.idle)) ∧
    (s.db.writable = true → exec .dbSetr s = .next (logged 0 [.dbSetReadable]
      { s.idle with db := { s.db with mask := 0x00, writable := false } })) ∧
    (s.db.writable = true → exec .dbSetw s = .next (logged 1 [.redundant (s.drawnBool 0)] s.idle)) ∧
    (s.db.writable = false → s.busGranted = true → s.asserted .rd = false → s.asserted .ioIn = false →
      exec .dbSetw s = .next (logged 0 [.dbSetWritable]
        { s.idle with db := { s.db with mask := 0xFF, writable := true } })) ∧
    (s.db.writable = false → s.busGranted = false ∨ s.asserted .rd = true ∨ s.asserted .ioIn = true →
      exec .dbSetw s = .fault (.contention (logged 0 [.dbSetWritable]
        { s.idle with
          db := { s.db with mask := 0xFF, writable := true }, position := 1, fault := some .contention })))

/-- R155, R157, R175: the gated latch writes: where the bus is not writable nothing changes and one error is logged.
R158: AB.WRREF writes the low byte of the latch whatever the flag is. -/
def Obligations.WrapperWrites : Prop :=
  ∀ s : State, Quiet s →
    (∀ a : Addr, Coded (.abWraddr a) (h16Word 0x15 a) ∧
      (s.ab.writable = false → exec (.abWraddr a) s = .next (logged 0 [.log .errNotWritable] s.idle)) ∧
      (s.ab.writable = true →
        exec (.abWraddr a) s = .next (logged 0 [.abLatch a] { s.idle with ab := { s.ab with latch := a } }))) ∧
    (∀ p : Byte, Coded (.abWrioaddr p) (h8Word 0x17 p) ∧
      (s.ab.writable = false → exec (.abWrioaddr p) s = .next (logged 0 [.log .errNotWritable] s.idle)) ∧
      (s.ab.writable = true → exec (.abWrioaddr p) s = .next (logged 0 [.abLatch (ioLatch s p)]
        { s.idle with ab := { s.ab with latch := ioLatch s p } }))) ∧
    (∀ d : Byte, Coded (.dbWr d) (h8Word 0x25 d) ∧
      (s.db.writable = false → exec (.dbWr d) s = .next (logged 0 [.log .errNotWritable] s.idle)) ∧
      (s.db.writable = true →
        exec (.dbWr d) s = .next (logged 0 [.dbLatch d] { s.idle with db := { s.db with latch := d } }))) ∧
    (∀ r : Byte, Coded (.abWrref r) (h8Word 0x18 r) ∧
      exec (.abWrref r) s = .next (logged 0 [.abLatch (s.ab.latch.extractLsb' 8 8 ++ r)]
        { s.idle with ab := { s.ab with latch := s.ab.latch.extractLsb' 8 8 ++ r } }))

/-! ## Mastership -/

/-- R191, R192: BC.TESTON from `Immutable`: its micro-steps in order, and exactly what it leaves. The draws are the
environment's word on the memory (log entry 6) and the optional warning of the data bus's redundant switch. -/
def Obligations.TakeBus : Prop :=
  Coded .bcTeston (nWord 0x30) ∧
  ∀ s : State, Inv s → s.mutable = false →
    exec .bcTeston s = .next (logged 2
      (takeSteps s)
      { s with
        signals := taken s.signals
        ab := { s.ab with mask := 0xFFFF, writable := true }
        db := { s.db with mask := 0x00, writable := false }
        mutable := true
        busGranted := true
        refreshEnabled := s.refreshConfigured
        memory := if s.drawnBool 0 then [] else s.memory })

/-- R190, R191, R193: BC.TESTON while `Mutable` and BC.TESTOFF while `Immutable` are no-ops with one warning. -/
def Obligations.RedundantMastership : Prop :=
  ∀ s : State, Quiet s →
    (s.mutable = true → exec .bcTeston s = .next (logged 0 [.log .wrnRedundant] s.idle)) ∧
    (s.mutable = false → exec .bcTestoff s = .next (logged 0 [.log .wrnRedundant] s.idle))

/-- R193: BC.TESTOFF from `Mutable`: its micro-steps in order, and what it leaves, up to what refresh ticks wrote before
refresh was off; where it was off from the start, exactly. -/
def Obligations.GiveBusBack : Prop :=
  Coded .bcTestoff (nWord 0x31) ∧
  ∀ s : State, Inv s → s.mutable = true → TickReady s → ReadableUndriven s →
    ∃ (t : State) (b1 b2 b3 : Bool), exec .bcTestoff s = .next t ∧
      t.foregroundSteps = s.foregroundSteps ++ giveBackSteps s b1 b2 b3 ∧
      Leaves s { s with
        signals := givenBack s.signals
        ab := { s.ab with mask := 0x0000, writable := false }
        db := { s.db with mask := 0x00, writable := false }
        mutable := false
        refreshEnabled := false
        busGranted := false } t ∧
      (s.refreshEnabled = false → t.signals.ras.lvl = s.signals.ras.lvl ∧ t.ab.latch = s.ab.latch ∧
        t.refreshRow = s.refreshRow)

/-- R194: BC.TESTON and then BC.TESTOFF give back what construction left. -/
def Obligations.TakeAndGiveBack : Prop :=
  ∀ s : State, Inv s → s.mutable = false → s.signals.wait.dir = .input → s.signals.int.dir = .input →
    ∃ t u, exec .bcTeston s = .next t ∧ exec .bcTestoff t = .next u ∧
      u.ab.mask = 0x0000 ∧ u.ab.writable = false ∧ u.db.mask = 0x00 ∧ u.db.writable = false ∧
      (∀ n : Signal, (u.line n).dir = .input) ∧
      u.mutable = false ∧ u.refreshEnabled = false ∧ u.busGranted = false

/-- R195: BC.WAITON drives WAIT low at once, unless it is gated out or WAIT is active already. R196: BC.WAITOFF releases
an active WAIT in every mode. -/
def Obligations.WaitCommands : Prop :=
  Coded .bcWaiton (nWord 0x32) ∧ Coded .bcWaitoff (nWord 0x33) ∧
  ∀ s : State, Quiet s →
    (s.params.gateIntWait = true ∧ s.mutable = false →
      exec .bcWaiton s = .next (logged 0 [.log .errNotMutable] s.idle)) ∧
    (¬ (s.params.gateIntWait = true ∧ s.mutable = false) → s.signals.wait = ⟨.output, .low⟩ →
      exec .bcWaiton s = .next (logged 0 [.log .wrnRedundant] s.idle)) ∧
    (¬ (s.params.gateIntWait = true ∧ s.mutable = false) → s.signals.wait ≠ ⟨.output, .low⟩ →
      exec .bcWaiton s = .next (logged 0 [.driveOut .wait .low]
        { s.idle with signals := { s.signals with wait := ⟨.output, .low⟩ } })) ∧
    (s.signals.wait ≠ ⟨.output, .low⟩ → exec .bcWaitoff s = .next (logged 0 [.log .wrnRedundant] s.idle)) ∧
    (s.signals.wait = ⟨.output, .low⟩ → exec .bcWaitoff s = .next (logged 0 [.setDir .wait .input]
      { s.idle with signals := { s.signals with wait := ⟨.input, .low⟩ } }))

/-- R197, R198, R199: the controller's queries. R302, R303: the version. -/
def Obligations.ControllerAndVersionQueries : Prop :=
  (Coded .bcIsmut (nWord 0x34) ∧ Answers .bcIsmut fun s => .bool s.mutable) ∧
  (Coded .bcIsref (nWord 0x35) ∧ Answers .bcIsref fun s => .bool s.refreshEnabled) ∧
  (Coded .bcRow (nWord 0x36) ∧ Answers .bcRow fun s => .row s.refreshRow) ∧
  (Coded .ver (nWord 0x81) ∧ Answers .ver fun s =>
    .version s.params.versionMajor s.params.versionMinor s.params.versionRevision) ∧
  (Coded .verstr (nWord 0x82) ∧ Answers .verstr fun s =>
    .text (decimal s.params.versionMajor ++ ['.'] ++ decimal s.params.versionMinor ++ ['.']
      ++ decimal s.params.versionRevision))

/-! ## Bus cycles -/

/-- R224, R229: while Immutable every cycle is rejected with one error log, performs no bus activity, and a read
responds 0; the bulk commands reject byte by byte, BC.COPY a read and a write cycle for each byte after its warning
(R232). -/
def Obligations.CyclesAreRejectedWhileImmutable : Prop :=
  ∀ s : State, Inv s → s.mutable = false →
    (∀ a, exec (.bcRdmem a) s = .next (logged 0 [.log .errNotMutable, .respond (.byte 0)] s)) ∧
    (∀ a d, exec (.bcWrmem a d) s = .next (logged 0 [.log .errNotMutable] s)) ∧
    (∀ p, exec (.bcRdio p) s = .next (logged 0 [.log .errNotMutable, .respond (.byte 0)] s)) ∧
    (∀ p d, exec (.bcWrio p d) s = .next (logged 0 [.log .errNotMutable] s)) ∧
    (∀ a len, len ≠ 0 → s.drawnBool 0 = false →
      exec (.bcRdmemn a len) s = .next (logged 1 (List.replicate len.toNat (MicroStep.log .errNotMutable)
        ++ [.respond (.bytes (List.replicate len.toNat 0))]) s)) ∧
    (∀ a len off buf, len ≠ 0 → s.buffer = some buf → off.toNat + len.toNat ≤ buf.length →
      exec (.bcWrmemn a len off) s = .next (logged 0 (List.replicate len.toNat (MicroStep.log .errNotMutable)) s)) ∧
    (∀ a len v, len ≠ 0 →
      exec (.bcFill a len v) s = .next (logged 0 (List.replicate len.toNat (MicroStep.log .errNotMutable)) s)) ∧
    (∀ src dst len, len ≠ 0 →
      exec (.bcCopy src dst len) s = .next (logged 0
        ((if (dst - src).toNat < len.toNat ∨ (src - dst).toNat < len.toNat then [MicroStep.log .wrnOverlap] else [])
          ++ List.replicate (2 * len.toNat) (MicroStep.log .errNotMutable)) s))

/-- R220 (with R224 to R228): BC.RDMEM while `Mutable`: its micro-steps in order, the address and the byte at the sample,
and what it leaves, up to what refresh ticks outside its critical section wrote. The byte is the target memory's where
that is known (log entry 5), and a draw otherwise: with refresh off, the second. A tick may also run just before the
response (log entry 21). What SP.ADIR makes of the address write is log entry 23. -/
def Obligations.MemoryReadCycle : Prop :=
  ∀ (a : Addr) (s : State), Coded (.bcRdmem a) (h16Word 0x40 a) ∧
    (CycleReady s [.ras, .rd, .mux, .cas] → s.db.mask = 0 →
      ∃ (t : State) (x : Addr) (d : Byte), exec (.bcRdmem a) s = .next t ∧
        t.foregroundSteps = s.foregroundSteps ++ readSteps s a x d ∧
        Leaves s { s with signals := strobed s.signals .rd, ab := { s.ab with latch := latchAfter s a } } t ∧
        t.signals.ras = ⟨.output, .high⟩ ∧
        x &&& (s.ab.mask &&& 0xFF00) = latchAfter s a &&& (s.ab.mask &&& 0xFF00) ∧
        (s.ab.writable = true → x &&& s.ab.mask = a &&& s.ab.mask) ∧
        (∀ b, Holds s x b → d = b) ∧
        (s.refreshEnabled = false →
          x = shown (latchAfter s a) s.ab.mask (abEnv s 0) ∧ ((∀ b, ¬ Holds s x b) → d = dbEnv s 1)))

/-- R221 (with R225 to R228): BC.WRMEM while `Mutable`: its micro-steps in order, the address and the byte the target
takes, and what it leaves. The target takes the lines' values where log entry 14 says, and the target memory is that of
log entry 5. What SP.ADIR makes of the address write is log entry 23. -/
def Obligations.MemoryWriteCycle : Prop :=
  ∀ (a : Addr) (d : Byte) (s : State), Coded (.bcWrmem a d) (mWord 0x41 d a) ∧
    (CycleReady s [.ras, .wr, .mux, .cas] →
      ∃ (t : State) (x : Addr) (y : Byte) (b : Bool), exec (.bcWrmem a d) s = .next t ∧
        t.foregroundSteps = s.foregroundSteps ++ writeSteps s a d x y b ∧
        Leaves s { s with
          signals := strobed s.signals .wr
          ab := { s.ab with latch := latchAfter s a }
          db := { latch := d, mask := 0, writable := false }
          memory := writes s.params.ramRegions [(x, y)] s.memory } t ∧
        t.signals.ras = ⟨.output, .high⟩ ∧
        x &&& (s.ab.mask &&& 0xFF00) = latchAfter s a &&& (s.ab.mask &&& 0xFF00) ∧
        (s.ab.writable = true → x &&& s.ab.mask = a &&& s.ab.mask) ∧
        y &&& writeMask s = d &&& writeMask s ∧
        (s.db.writable = false ∨ s.db.mask = 0xFF → y = d) ∧
        (s.refreshEnabled = false →
          x = shown (latchAfter s a) s.ab.mask (abEnv s (writeDraw s)) ∧
          y = shown d (writeMask s) (dbEnv s (writeDraw s + 1))))

/-- R222: BC.RDIO while `Mutable`, in both shapes: the port decoded is A7..A0 at the sample, the byte a draw. A tick may
also run just before the response (log entry 21). What SP.ADIR makes of the address write is log
entry 23. -/
def Obligations.PortReadCycle : Prop :=
  ∀ (p : Byte) (s : State), Coded (.bcRdio p) (h8Word 0x42 p) ∧
    (CycleReady s (ioLines s.params .ioIn) → s.db.mask = 0 →
      ∃ (t : State) (x d : Byte), exec (.bcRdio p) s = .next t ∧
        t.foregroundSteps = s.foregroundSteps ++ portReadSteps s p x d ∧
        Leaves s { s with
          signals := match s.params.ioShape with
            | .full => strobed s.signals .ioIn
            | .strobeOnly => { s.signals with ioIn := ⟨.output, .high⟩ }
          ab := { s.ab with latch := ioLatchAfter s p } } t ∧
        (s.params.ioShape = .full → t.signals.ras = ⟨.output, .high⟩) ∧
        (s.ab.writable = true → x &&& s.ab.mask.extractLsb' 0 8 = p &&& s.ab.mask.extractLsb' 0 8) ∧
        (s.refreshEnabled = false →
          x = (shown (ioLatchAfter s p) s.ab.mask (abEnv s 0)).extractLsb' 0 8 ∧ d = dbEnv s 1))

/-- R223: BC.WRIO while `Mutable`, in both shapes: the port and the byte a device takes, where log entry 14 says. The
target memory is untouched. What SP.ADIR makes of the address write is log
entry 23. -/
def Obligations.PortWriteCycle : Prop :=
  ∀ (p d : Byte) (s : State), Coded (.bcWrio p d) (pWord 0x43 d p) ∧
    (CycleReady s (ioLines s.params .ioOut) →
      ∃ (t : State) (x y : Byte) (b : Bool), exec (.bcWrio p d) s = .next t ∧
        t.foregroundSteps = s.foregroundSteps ++ portWriteSteps s p d x y b ∧
        Leaves s { s with
          signals := match s.params.ioShape with
            | .full => strobed s.signals .ioOut
            | .strobeOnly => { s.signals with ioOut := ⟨.output, .high⟩ }
          ab := { s.ab with latch := ioLatchAfter s p }
          db := { latch := d, mask := 0, writable := false } } t ∧
        (s.params.ioShape = .full → t.signals.ras = ⟨.output, .high⟩) ∧
        (s.ab.writable = true → x &&& s.ab.mask.extractLsb' 0 8 = p &&& s.ab.mask.extractLsb' 0 8) ∧
        y &&& writeMask s = d &&& writeMask s ∧
        (s.db.writable = false ∨ s.db.mask = 0xFF → y = d) ∧
        (s.refreshEnabled = false →
          x = (shown (ioLatchAfter s p) s.ab.mask (abEnv s (writeDraw s))).extractLsb' 0 8 ∧
          y = shown d (writeMask s) (dbEnv s (writeDraw s + 1))))

/-- R135, R373: a cycle that asserts a line the host has released ends the run with `FLT_WRITE_INPUT`. -/
def Obligations.ReleasedStrobeFaults : Prop :=
  ∀ (i : Instr) (n : Signal) (s : State), Inv s → s.mutable = true → s.busGranted = true → s.db.mask = 0 →
    s.asserted .rd = false → s.asserted .ioIn = false →
    n ∈ strobesOf s.params i → (s.line n).dir = .input →
    ∃ u, exec i s = .fault (.writeInput u) ∧ u.fault = some .writeInput

/-- R372: a memory or I/O read with the data bus driven ends the run with `FLT_CONTENTION`, just after RD, or IN in both
I/O shapes, is asserted. What the address step of the trace is after a raw SP.ADIR that made every address line an input
is the model's choice (log entry 23). -/
def Obligations.DrivenReadFaults : Prop :=
  ∀ s : State, s.db.mask ≠ 0 →
    (∀ a : Addr, CycleReady s [.ras, .rd, .mux, .cas] →
      ∃ u, exec (.bcRdmem a) s = .fault (.contention u) ∧ u.fault = some .contention ∧
        u.foregroundSteps = s.foregroundSteps ++ [.check, .setMasked true, addressStep s a,
          .write .ras .low, .hold .tR1 s.params.timing.tR1, .write .rd .low]) ∧
    (∀ p : Byte, CycleReady s (ioLines s.params .ioIn) →
      ∃ u, exec (.bcRdio p) s = .fault (.contention u) ∧ u.fault = some .contention ∧
        u.foregroundSteps = s.foregroundSteps ++ (match s.params.ioShape with
          | .full => [.check, .setMasked true, portStep s p,
              .write .ras .low, .hold .tIoR1 s.params.timing.tIoR1, .write .ioIn .low]
          | .strobeOnly => [.check, .setMasked true, portStep s p, .write .ioIn .low]))

/-! ## Bulk commands -/

/-- R231 to R233, R235, R321: the contract checks of the bulk commands without a response, in order: each emits one
error log, and the command is a safe no-op; a buffer that is too short is `FLT_BUFFER`. -/
def Obligations.BulkContractChecks : Prop :=
  ∀ s : State, Quiet s →
    (∀ a len off, s.buffer = none → exec (.bcWrmemn a len off) s = .next (logged 0 [.log .errContract] s.idle)) ∧
    (∀ a off buf, s.buffer = some buf →
      exec (.bcWrmemn a 0 off) s = .next (logged 0 [.log .errContract] s.idle)) ∧
    (∀ a len off buf, s.buffer = some buf → len ≠ 0 → buf.length < off.toNat + len.toNat →
      exec (.bcWrmemn a len off) s = .fault (.buffer { s.idle with fault := some .buffer })) ∧
    (∀ src dst, exec (.bcCopy src dst 0) s = .next (logged 0 [.log .errContract] s.idle)) ∧
    (∀ a v, exec (.bcFill a 0 v) s = .next (logged 0 [.log .errContract] s.idle))

/-- R230, R235: BC.RDMEMN of length 0, and one whose allocation fails, performs no cycle: one error log and the response
`null`. Refresh ticks may run between the two. -/
def Obligations.BulkReadRejections : Prop :=
  ∀ (a : Addr) (len : BitVec 16) (s : State), Inv s → TickReady s → len = 0 ∨ s.drawnBool 0 = true →
    ∃ t, exec (.bcRdmemn a len) s = .next t ∧ Leaves s s t ∧
      t.foregroundSteps = s.foregroundSteps ++
        [MicroStep.log (if len = 0 then .errContract else .errAlloc), MicroStep.respond .null]

/-- R230, R234: BC.RDMEMN reads its `n` bytes by `n` cycles at rising addresses modulo 2^16 and responds them in that
order; where the target memory is known (R66, log entry 5), they are its bytes. Nothing else changes but the address
latch. -/
def Obligations.BulkRead : Prop :=
  ∀ (a : Addr) (len : BitVec 16) (s : State),
    encode (.bcRdmemn a len) = (mWord 0x50 0 a, b2Word len 0) ∧
    (Disciplined s → s.mutable = true → len ≠ 0 → s.drawnBool 0 = false →
      ∃ (t : State) (ds : List Byte), exec (.bcRdmemn a len) s = .next t ∧ Disciplined t ∧ ds.length = len.toNat ∧
        t.responses = s.responses ++ [.bytes ds] ∧ t.logs = s.logs ∧
        t.busCycles = s.busCycles ++ (List.range len.toNat).map (fun k => MicroStep.sampleMem (nth a k) (ds.getD k 0)) ∧
        (∀ k b, k < len.toNat → Holds s (nth a k) b → ds[k]? = some b) ∧
        Leaves s { s with ab := { s.ab with latch := nth a (len.toNat - 1) } } t)

/-- R231, R234: BC.WRMEMN writes the bytes of the host buffer from its offset on, one cycle each, at rising addresses
modulo 2^16. The target memory (R66, log entry 5) is changed by those writes, in order, and by nothing else. -/
def Obligations.BulkWrite : Prop :=
  ∀ (a : Addr) (len off : BitVec 16) (buf : List Byte) (s : State),
    encode (.bcWrmemn a len off) = (mWord 0x51 0 a, b2Word len off) ∧
    (Disciplined s → s.mutable = true → s.buffer = some buf → len ≠ 0 → off.toNat + len.toNat ≤ buf.length →
      ∃ t, exec (.bcWrmemn a len off) s = .next t ∧ Disciplined t ∧ t.responses = s.responses ∧ t.logs = s.logs ∧
        t.busCycles = s.busCycles ++
          (List.range len.toNat).map (fun k => MicroStep.memWrite (nth a k) (buf.getD (off.toNat + k) 0)) ∧
        Leaves s { s with
          ab := { s.ab with latch := nth a (len.toNat - 1) }
          db := { s.db with latch := buf.getD (off.toNat + (len.toNat - 1)) 0 }
          memory := writes s.params.ramRegions
            ((List.range len.toNat).map fun k => (nth a k, buf.getD (off.toNat + k) 0)) s.memory } t ∧
        (∀ k, k < len.toNat → inRegions s.params.ramRegions (nth a k) = true →
          t.memory.read (nth a k).toNat = some (buf.getD (off.toNat + k) 0)) ∧
        (∀ x : Addr, (∀ k, k < len.toNat → inRegions s.params.ramRegions (nth a k) = true → nth a k ≠ x) →
          t.memory.read x.toNat = s.memory.read x.toNat))

/-- R233, R234: BC.FILL writes one byte to every address of its range, modulo 2^16, and to no other. The target memory
(R66, log entry 5) is changed by those writes and by nothing else. -/
def Obligations.BulkFill : Prop :=
  ∀ (a : Addr) (len : BitVec 16) (v : Byte) (s : State),
    encode (.bcFill a len v) = (mWord 0x53 v a, b2Word len 0) ∧
    (Disciplined s → s.mutable = true → len ≠ 0 →
      ∃ t, exec (.bcFill a len v) s = .next t ∧ Disciplined t ∧ t.responses = s.responses ∧ t.logs = s.logs ∧
        t.busCycles = s.busCycles ++ (List.range len.toNat).map (fun k => MicroStep.memWrite (nth a k) v) ∧
        Leaves s { s with
          ab := { s.ab with latch := nth a (len.toNat - 1) }
          db := { s.db with latch := v }
          memory := writes s.params.ramRegions ((List.range len.toNat).map fun k => (nth a k, v)) s.memory } t ∧
        (∀ k, k < len.toNat → inRegions s.params.ramRegions (nth a k) = true →
          t.memory.read (nth a k).toNat = some v) ∧
        (∀ x : Addr, (∀ k, k < len.toNat → inRegions s.params.ramRegions (nth a k) = true → nth a k ≠ x) →
          t.memory.read x.toNat = s.memory.read x.toNat))

/-- R232: BC.COPY warns once of overlapping ranges, before any cycle, and then copies byte by byte, a read cycle and a
write cycle of the byte read each, from high to low when the destination starts inside the source and from low to high
otherwise. `vs` are the bytes read, in the order of the copy: the target memory (R66, log entry 5) is changed by writing
them, in that order, and by nothing else, and DB.latch holds the last. -/
def Obligations.CopyCycles : Prop :=
  ∀ (src dst : Addr) (len : BitVec 16) (s : State),
    encode (.bcCopy src dst len) = (mWord 0x52 0 src, b2Word len dst) ∧
    (Disciplined s → s.mutable = true → len ≠ 0 →
      ∃ (t : State) (vs : List Byte), exec (.bcCopy src dst len) s = .next t ∧ Disciplined t ∧
        vs.length = len.toNat ∧ t.responses = s.responses ∧
        t.logs = s.logs ++
          (if (dst - src).toNat < len.toNat ∨ (src - dst).toNat < len.toNat then [.wrnOverlap] else []) ∧
        t.busCycles = s.busCycles ++
          (((copyIndices src dst len.toNat).zip vs).flatMap fun kv =>
            [MicroStep.sampleMem (nth src kv.1) kv.2, MicroStep.memWrite (nth dst kv.1) kv.2]) ∧
        (∀ j, j < len.toNat → ∀ b, Holds s (nth src ((copyIndices src dst len.toNat).getD j 0)) b →
          (∀ i, i < j → nth dst ((copyIndices src dst len.toNat).getD i 0) ≠
            nth src ((copyIndices src dst len.toNat).getD j 0)) → vs[j]? = some b) ∧
        Leaves s { s with
          ab := { s.ab with latch := nth dst ((copyIndices src dst len.toNat).getD (len.toNat - 1) 0) }
          db := { s.db with latch := vs.getD (len.toNat - 1) 0 }
          memory := writes s.params.ramRegions
            (((copyIndices src dst len.toNat).zip vs).map fun kv => (nth dst kv.1, kv.2)) s.memory } t)

/-- R232, R66 (log entry 5): under the target assumption every destination byte receives the source byte as it was before the command,
for ranges in RAM whose source bytes are known; every other byte stays. The last premise leaves out ranges that overlap
at both ends, modulo 2^16, with the destination inside the source: there no direction avoids overwriting a source byte
that is still to be read (NOTES.md). -/
def Obligations.CopyMovesTheBytes : Prop :=
  ∀ (src dst : Addr) (len : BitVec 16) (b : Nat → Byte) (s : State), Disciplined s → s.mutable = true → len ≠ 0 →
    (∀ k, k < len.toNat → Holds s (nth src k) (b k)) →
    (∀ k, k < len.toNat → inRegions s.params.ramRegions (nth dst k) = true) →
    (dst = src ∨ len.toNat ≤ (dst - src).toNat ∨ (dst - src).toNat + len.toNat ≤ 65536) →
    ∃ t, exec (.bcCopy src dst len) s = .next t ∧
      (∀ k, k < len.toNat → t.memory.read (nth dst k).toNat = some (b k)) ∧
      (∀ x : Addr, (∀ k, k < len.toNat → nth dst k ≠ x) → t.memory.read x.toNat = s.memory.read x.toNat)

/-- R66, R76 (log entry 5): a read cycle observes the byte the last write cycle wrote at its address, in RAM_REGIONS, while BMC keeps
the bus; every other byte of the target memory stays. -/
def Obligations.ReadSeesLastWrite : Prop :=
  ∀ (a : Addr) (d : Byte) (s : State), Disciplined s → s.mutable = true →
    inRegions s.params.ramRegions a = true →
    ∃ t u, exec (.bcWrmem a d) s = .next t ∧ exec (.bcRdmem a) t = .next u ∧
      u.responses = s.responses ++ [.byte d] ∧
      u.busCycles = s.busCycles ++ [MicroStep.memWrite a d, MicroStep.sampleMem a d] ∧
      u.memory.read a.toNat = some d ∧
      ∀ x : Addr, x ≠ a → u.memory.read x.toNat = s.memory.read x.toNat

/-! ## Interrupt and refresh commands -/

/-- R260, R261, R262: BC.INT while gated out is rejected with one error log and responds false. Otherwise it completes on
every path, also while Immutable: either after `k` polls that find INT_ACK high and one that finds it low, with the code
driven on the data bus under the handshake and the response true, or after `TMO` polls that find it high, with the
timeout logged and the response false. INT is an input at the end. -/
def Obligations.InterruptHandshake : Prop :=
  ∀ (code : Byte) (tmo : BitVec 16) (s : State), Coded (.bcInt code tmo) (mWord 0x60 code tmo) ∧
    (Inv s → s.params.gateIntWait = true → s.mutable = false →
      exec (.bcInt code tmo) s = .next (logged 0 [.log .errNotMutable, .respond (.bool false)] s)) ∧
    (Inv s → (s.params.gateIntWait = true → s.mutable = true) → s.asserted .rd = false → s.asserted .ioIn = false →
      TickReady s →
      ∃ t, exec (.bcInt code tmo) s = .next t ∧
        ((∃ (k : Nat) (b : Bool), k < tmo.toNat ∧
            t.foregroundSteps = s.foregroundSteps ++ ackedSteps s code k b ∧
            Leaves s { s with
              signals := { s.signals with int := ⟨.input, .low⟩ }
              db := { latch := code, mask := 0, writable := false } } t) ∨
         (t.foregroundSteps = s.foregroundSteps ++ timeoutSteps s tmo.toNat ∧
            Leaves s { s with signals := { s.signals with int := ⟨.input, .low⟩ } } t)))

/-- R260: with refresh off, the acknowledgment BC.INT takes is the first of its `TMO` samples that shows INT_ACK low. -/
def Obligations.InterruptTakesFirstAck : Prop :=
  ∀ (code : Byte) (tmo : BitVec 16) (s : State), Inv s → (s.params.gateIntWait = true → s.mutable = true) →
    s.asserted .rd = false → s.asserted .ioIn = false → s.refreshEnabled = false →
    (∀ k, k < tmo.toNat → (∀ j, j < k → s.drawnLevel j = .high) → s.drawnLevel k = .low →
      ∃ t b, exec (.bcInt code tmo) s = .next t ∧
        t.foregroundSteps = s.foregroundSteps ++ ackedSteps s code k b) ∧
    ((∀ j, j < tmo.toNat → s.drawnLevel j = .high) →
      ∃ t, exec (.bcInt code tmo) s = .next t ∧
        t.foregroundSteps = s.foregroundSteps ++ timeoutSteps s tmo.toNat)

/-- R266, R267: arming and disarming refresh: the checks of BC.REFON in order, and that nothing but `refreshEnabled`
changes. -/
def Obligations.RefreshArming : Prop :=
  Coded .bcRefon (nWord 0x61) ∧ Coded .bcRefoff (nWord 0x62) ∧
  ∀ s : State, Quiet s →
    (s.mutable = false → exec .bcRefon s = .next (logged 0 [.log .errNotMutable] s.idle)) ∧
    (s.mutable = true → s.refreshConfigured = false →
      exec .bcRefon s = .next (logged 0 [.log .errNoTimer] s.idle)) ∧
    (s.mutable = true → s.refreshConfigured = true → s.refreshEnabled = true →
      exec .bcRefon s = .next (logged 1 [.redundant (s.drawnBool 0)] s.idle)) ∧
    (s.mutable = true → s.refreshConfigured = true → s.refreshEnabled = false →
      exec .bcRefon s = .next (logged 0 [.setRefresh true] { s.idle with refreshEnabled := true })) ∧
    (s.refreshEnabled = false → exec .bcRefoff s = .next (logged 1 [.redundant (s.drawnBool 0)] s.idle)) ∧
    (s.refreshEnabled = true →
      exec .bcRefoff s = .next (logged 0 [.setRefresh false] { s.idle with refreshEnabled := false }))

/-! ## Queries, diagnostics, initialise and shutdown -/

/-- R290 to R297: the range predicates over the map of R63. -/
def Obligations.RangePredicates : Prop :=
  ∀ a : Addr,
    (Coded (.isRom a) (h16Word 0x70 a) ∧ Answers (.isRom a) fun _ => .bool (decide (a.toNat ≤ 0x2FFF))) ∧
    (Coded (.isUnused a) (h16Word 0x71 a) ∧
      Answers (.isUnused a) fun _ => .bool (decide (0x3000 ≤ a.toNat ∧ a.toNat ≤ 0x37DF))) ∧
    (Coded (.isMmio a) (h16Word 0x72 a) ∧
      Answers (.isMmio a) fun _ => .bool (decide (0x37E0 ≤ a.toNat ∧ a.toNat ≤ 0x37FF))) ∧
    (Coded (.isKbd a) (h16Word 0x73 a) ∧
      Answers (.isKbd a) fun _ => .bool (decide (0x3800 ≤ a.toNat ∧ a.toNat ≤ 0x3BFF))) ∧
    (Coded (.isVideo a) (h16Word 0x74 a) ∧
      Answers (.isVideo a) fun _ => .bool (decide (0x3C00 ≤ a.toNat ∧ a.toNat ≤ 0x3FFF))) ∧
    (Coded (.isSysmem a) (h16Word 0x75 a) ∧
      Answers (.isSysmem a) fun _ => .bool (decide (0x4000 ≤ a.toNat ∧ a.toNat ≤ 0x41FF))) ∧
    (Coded (.isLoexp a) (h16Word 0x76 a) ∧
      Answers (.isLoexp a) fun _ => .bool (decide (0x4200 ≤ a.toNat ∧ a.toNat ≤ 0x7FFF))) ∧
    (Coded (.isHiexp a) (h16Word 0x77 a) ∧ Answers (.isHiexp a) fun _ => .bool (decide (0x8000 ≤ a.toNat)))

/-- R298: of the eight predicates exactly one responds true, at every address and in every quiet state. -/
def Obligations.RangesPartition : Prop :=
  ∀ (a : Addr) (s : State), Quiet s →
    ([Instr.isRom a, .isUnused a, .isMmio a, .isKbd a, .isVideo a, .isSysmem a, .isLoexp a, .isHiexp a].filter fun i =>
      match exec i s with
      | .next t => t.responses == s.responses ++ [.bool true]
      | _ => false).length = 1

/-- R301: BC.STATE samples the twelve signals and both buses, one micro-step each (log entry 22), and responds the
controller string. Where no tick is enabled the draws are the first 14; where one is, ticks may run between the samples:
the string still shows the row from before them, every driven signal at its level, and every driven bit of A15..A8 and
of the data bus. -/
def Obligations.ControllerStringQuery : Prop :=
  Coded .bcState (nWord 0x80) ∧
  ∀ s : State, Quiet s →
    (s.tickEnabled = false → exec .bcState s = .next (logged 14
      (stateSteps s (sampledLevels s) (shown s.ab.latch s.ab.mask (abEnv s 12)) (shown s.db.latch s.db.mask (dbEnv s 13)))
      s.idle)) ∧
    (TickReady s → ∃ (t : State) (ls : List Level) (a : Addr) (d : Byte), exec .bcState s = .next t ∧
      Leaves s s.idle t ∧ ls.length = 12 ∧ t.foregroundSteps = s.foregroundSteps ++ stateSteps s ls a d ∧
      (∀ p ∈ signalNames.zip ls, (s.line p.1.1).dir = .output → p.2 = (s.line p.1.1).lvl) ∧
      a &&& (s.ab.mask &&& 0xFF00) = s.ab.latch &&& (s.ab.mask &&& 0xFF00) ∧
      d &&& s.db.mask = s.db.latch &&& s.db.mask)

/-- R305: BC.INIT: rejected while Mutable; else every signal and both buses released, in order, and the refresh bit
set. -/
def Obligations.Initialise : Prop :=
  ∀ (rc : Bool) (s : State), Coded (.bcInit rc) (rWord 0x83 rc) ∧
    (Quiet s → s.mutable = true → exec (.bcInit rc) s = .next (logged 0 [.log .errContract] s.idle)) ∧
    (Inv s → s.mutable = false →
      exec (.bcInit rc) s = .next (logged 0
        (releaseSteps ++ [.setConfigured rc])
        { s with
          signals := released s.signals
          ab := { s.ab with mask := 0x0000, writable := false }
          db := { s.db with mask := 0x00, writable := false }
          busGranted := false
          refreshConfigured := rc }))

/-- R306: BC.SHUTDOWN: the releases alone while Immutable, after the sequence of BC.TESTOFF while Mutable. -/
def Obligations.Shutdown : Prop :=
  Coded .bcShutdown (nWord 0x84) ∧
  ∀ s : State, Inv s →
    (s.mutable = false →
      exec .bcShutdown s = .next (logged 0 releaseSteps
        { s with
          signals := released s.signals
          ab := { s.ab with mask := 0x0000, writable := false }
          db := { s.db with mask := 0x00, writable := false }
          busGranted := false })) ∧
    (s.mutable = true → TickReady s → ReadableUndriven s →
      ∃ (t : State) (b1 b2 b3 : Bool), exec .bcShutdown s = .next t ∧
        t.foregroundSteps = s.foregroundSteps ++ giveBackSteps s b1 b2 b3 ++ releaseSteps ∧
        (∃ u, exec .bcTestoff s = .next u ∧ u.foregroundSteps = s.foregroundSteps ++ giveBackSteps s b1 b2 b3) ∧
        Leaves s { s with
          signals := released s.signals
          ab := { s.ab with mask := 0x0000, writable := false }
          db := { s.db with mask := 0x00, writable := false }
          mutable := false
          refreshEnabled := false
          busGranted := false } t)

/-- R307: after a BC.INIT that is not rejected, or any BC.SHUTDOWN, the directions, masks and flags have their reset
values. -/
def Obligations.InitAndShutdownRestoreReset : Prop :=
  ∀ (i : Instr) (s t : State), Inv s → exec i s = .next t →
    ((∃ rc, i = .bcInit rc) ∧ s.mutable = false) ∨ i = .bcShutdown →
    (∀ n : Signal, (t.line n).dir = .input) ∧ t.ab.mask = 0x0000 ∧ t.ab.writable = false ∧ t.db.mask = 0x00 ∧
      t.db.writable = false ∧ t.mutable = false ∧ t.refreshEnabled = false ∧ t.masked = false ∧ t.busGranted = false
end

