-- ==== Sys2Proof/Laws/State.lean ====
section
/-!
SUPPORT. One lemma per field per named update of `State`, true by `rfl`, so that no proof unfolds a record update.
-/
namespace Sys2Proof.Machine

/-! ### `State.idle` -/

@[simp] theorem State.idle_signals (s : State) : s.idle.signals = s.signals := rfl
@[simp] theorem State.idle_ab (s : State) : s.idle.ab = s.ab := rfl
@[simp] theorem State.idle_db (s : State) : s.idle.db = s.db := rfl
@[simp] theorem State.idle_mutable (s : State) : s.idle.mutable = s.mutable := rfl
@[simp] theorem State.idle_refreshEnabled (s : State) : s.idle.refreshEnabled = s.refreshEnabled := rfl
@[simp] theorem State.idle_refreshRow (s : State) : s.idle.refreshRow = s.refreshRow := rfl
@[simp] theorem State.idle_refreshConfigured (s : State) : s.idle.refreshConfigured = s.refreshConfigured := rfl
@[simp] theorem State.idle_masked (s : State) : s.idle.masked = s.masked := rfl
@[simp] theorem State.idle_busGranted (s : State) : s.idle.busGranted = s.busGranted := rfl
@[simp] theorem State.idle_fault (s : State) : s.idle.fault = s.fault := rfl
@[simp] theorem State.idle_position (s : State) : s.idle.position = 0 := rfl
@[simp] theorem State.idle_intAckDrive (s : State) : s.idle.intAckDrive = false := rfl
@[simp] theorem State.idle_params (s : State) : s.idle.params = s.params := rfl
@[simp] theorem State.idle_memory (s : State) : s.idle.memory = s.memory := rfl
@[simp] theorem State.idle_pending (s : State) : s.idle.pending = s.pending := rfl
@[simp] theorem State.idle_buffer (s : State) : s.idle.buffer = s.buffer := rfl
@[simp] theorem State.idle_inputs (s : State) : s.idle.inputs = s.inputs := rfl
@[simp] theorem State.idle_drawCount (s : State) : s.idle.drawCount = s.drawCount := rfl
@[simp] theorem State.idle_trace (s : State) : s.idle.trace = s.trace := rfl

/-! ### `State.skip` -/

@[simp] theorem State.skip_signals (k : Nat) (s : State) : (s.skip k).signals = s.signals := rfl
@[simp] theorem State.skip_ab (k : Nat) (s : State) : (s.skip k).ab = s.ab := rfl
@[simp] theorem State.skip_db (k : Nat) (s : State) : (s.skip k).db = s.db := rfl
@[simp] theorem State.skip_mutable (k : Nat) (s : State) : (s.skip k).mutable = s.mutable := rfl
@[simp] theorem State.skip_refreshEnabled (k : Nat) (s : State) : (s.skip k).refreshEnabled = s.refreshEnabled := rfl
@[simp] theorem State.skip_refreshRow (k : Nat) (s : State) : (s.skip k).refreshRow = s.refreshRow := rfl
@[simp] theorem State.skip_refreshConfigured (k : Nat) (s : State) : (s.skip k).refreshConfigured = s.refreshConfigured := rfl
@[simp] theorem State.skip_masked (k : Nat) (s : State) : (s.skip k).masked = s.masked := rfl
@[simp] theorem State.skip_busGranted (k : Nat) (s : State) : (s.skip k).busGranted = s.busGranted := rfl
@[simp] theorem State.skip_fault (k : Nat) (s : State) : (s.skip k).fault = s.fault := rfl
@[simp] theorem State.skip_position (k : Nat) (s : State) : (s.skip k).position = s.position := rfl
@[simp] theorem State.skip_intAckDrive (k : Nat) (s : State) : (s.skip k).intAckDrive = s.intAckDrive := rfl
@[simp] theorem State.skip_params (k : Nat) (s : State) : (s.skip k).params = s.params := rfl
@[simp] theorem State.skip_memory (k : Nat) (s : State) : (s.skip k).memory = s.memory := rfl
@[simp] theorem State.skip_pending (k : Nat) (s : State) : (s.skip k).pending = s.pending := rfl
@[simp] theorem State.skip_buffer (k : Nat) (s : State) : (s.skip k).buffer = s.buffer := rfl
@[simp] theorem State.skip_inputs (k : Nat) (s : State) : (s.skip k).inputs = s.inputs.drop k := rfl
@[simp] theorem State.skip_drawCount (k : Nat) (s : State) : (s.skip k).drawCount = s.drawCount + k := rfl
@[simp] theorem State.skip_trace (k : Nat) (s : State) : (s.skip k).trace = s.trace := rfl

/-! ### `State.record` -/

@[simp] theorem State.record_signals (a : Agent) (m : MicroStep) (s : State) : (s.record a m).signals = s.signals := rfl
@[simp] theorem State.record_ab (a : Agent) (m : MicroStep) (s : State) : (s.record a m).ab = s.ab := rfl
@[simp] theorem State.record_db (a : Agent) (m : MicroStep) (s : State) : (s.record a m).db = s.db := rfl
@[simp] theorem State.record_mutable (a : Agent) (m : MicroStep) (s : State) : (s.record a m).mutable = s.mutable := rfl
@[simp] theorem State.record_refreshEnabled (a : Agent) (m : MicroStep) (s : State) : (s.record a m).refreshEnabled = s.refreshEnabled := rfl
@[simp] theorem State.record_refreshRow (a : Agent) (m : MicroStep) (s : State) : (s.record a m).refreshRow = s.refreshRow := rfl
@[simp] theorem State.record_refreshConfigured (a : Agent) (m : MicroStep) (s : State) : (s.record a m).refreshConfigured = s.refreshConfigured := rfl
@[simp] theorem State.record_masked (a : Agent) (m : MicroStep) (s : State) : (s.record a m).masked = s.masked := rfl
@[simp] theorem State.record_busGranted (a : Agent) (m : MicroStep) (s : State) : (s.record a m).busGranted = s.busGranted := rfl
@[simp] theorem State.record_fault (a : Agent) (m : MicroStep) (s : State) : (s.record a m).fault = s.fault := rfl
@[simp] theorem State.record_position (a : Agent) (m : MicroStep) (s : State) : (s.record a m).position = s.position := rfl
@[simp] theorem State.record_intAckDrive (a : Agent) (m : MicroStep) (s : State) : (s.record a m).intAckDrive = s.intAckDrive := rfl
@[simp] theorem State.record_params (a : Agent) (m : MicroStep) (s : State) : (s.record a m).params = s.params := rfl
@[simp] theorem State.record_memory (a : Agent) (m : MicroStep) (s : State) : (s.record a m).memory = s.memory := rfl
@[simp] theorem State.record_pending (a : Agent) (m : MicroStep) (s : State) : (s.record a m).pending = s.pending := rfl
@[simp] theorem State.record_buffer (a : Agent) (m : MicroStep) (s : State) : (s.record a m).buffer = s.buffer := rfl
@[simp] theorem State.record_inputs (a : Agent) (m : MicroStep) (s : State) : (s.record a m).inputs = s.inputs := rfl
@[simp] theorem State.record_drawCount (a : Agent) (m : MicroStep) (s : State) : (s.record a m).drawCount = s.drawCount := rfl
@[simp] theorem State.record_trace (a : Agent) (m : MicroStep) (s : State) : (s.record a m).trace = s.trace ++ [⟨a, m⟩] := rfl

/-! ### `State.setLine` -/

@[simp] theorem State.setLine_signals (n : Signal) (l : Line) (s : State) : (s.setLine n l).signals = s.signals.set n l := rfl
@[simp] theorem State.setLine_ab (n : Signal) (l : Line) (s : State) : (s.setLine n l).ab = s.ab := rfl
@[simp] theorem State.setLine_db (n : Signal) (l : Line) (s : State) : (s.setLine n l).db = s.db := rfl
@[simp] theorem State.setLine_mutable (n : Signal) (l : Line) (s : State) : (s.setLine n l).mutable = s.mutable := rfl
@[simp] theorem State.setLine_refreshEnabled (n : Signal) (l : Line) (s : State) : (s.setLine n l).refreshEnabled = s.refreshEnabled := rfl
@[simp] theorem State.setLine_refreshRow (n : Signal) (l : Line) (s : State) : (s.setLine n l).refreshRow = s.refreshRow := rfl
@[simp] theorem State.setLine_refreshConfigured (n : Signal) (l : Line) (s : State) : (s.setLine n l).refreshConfigured = s.refreshConfigured := rfl
@[simp] theorem State.setLine_masked (n : Signal) (l : Line) (s : State) : (s.setLine n l).masked = s.masked := rfl
@[simp] theorem State.setLine_busGranted (n : Signal) (l : Line) (s : State) : (s.setLine n l).busGranted = if n = .test ∧ ¬ (l.dir = .output ∧ l.lvl = activeLevel .test) then false else s.busGranted := rfl
@[simp] theorem State.setLine_fault (n : Signal) (l : Line) (s : State) : (s.setLine n l).fault = s.fault := rfl
@[simp] theorem State.setLine_position (n : Signal) (l : Line) (s : State) : (s.setLine n l).position = s.position := rfl
@[simp] theorem State.setLine_intAckDrive (n : Signal) (l : Line) (s : State) : (s.setLine n l).intAckDrive = s.intAckDrive := rfl
@[simp] theorem State.setLine_params (n : Signal) (l : Line) (s : State) : (s.setLine n l).params = s.params := rfl
@[simp] theorem State.setLine_memory (n : Signal) (l : Line) (s : State) : (s.setLine n l).memory = s.memory := rfl
@[simp] theorem State.setLine_pending (n : Signal) (l : Line) (s : State) : (s.setLine n l).pending = s.pending := rfl
@[simp] theorem State.setLine_buffer (n : Signal) (l : Line) (s : State) : (s.setLine n l).buffer = s.buffer := rfl
@[simp] theorem State.setLine_inputs (n : Signal) (l : Line) (s : State) : (s.setLine n l).inputs = s.inputs := rfl
@[simp] theorem State.setLine_drawCount (n : Signal) (l : Line) (s : State) : (s.setLine n l).drawCount = s.drawCount := rfl
@[simp] theorem State.setLine_trace (n : Signal) (l : Line) (s : State) : (s.setLine n l).trace = s.trace := rfl

/-! ### `State.accept` -/

@[simp] theorem State.accept_signals (d : Delivery) (s : State) : (s.accept d).signals = s.signals := rfl
@[simp] theorem State.accept_ab (d : Delivery) (s : State) : (s.accept d).ab = s.ab := rfl
@[simp] theorem State.accept_db (d : Delivery) (s : State) : (s.accept d).db = s.db := rfl
@[simp] theorem State.accept_mutable (d : Delivery) (s : State) : (s.accept d).mutable = s.mutable := rfl
@[simp] theorem State.accept_refreshEnabled (d : Delivery) (s : State) : (s.accept d).refreshEnabled = s.refreshEnabled := rfl
@[simp] theorem State.accept_refreshRow (d : Delivery) (s : State) : (s.accept d).refreshRow = s.refreshRow := rfl
@[simp] theorem State.accept_refreshConfigured (d : Delivery) (s : State) : (s.accept d).refreshConfigured = s.refreshConfigured := rfl
@[simp] theorem State.accept_masked (d : Delivery) (s : State) : (s.accept d).masked = s.masked := rfl
@[simp] theorem State.accept_busGranted (d : Delivery) (s : State) : (s.accept d).busGranted = s.busGranted := rfl
@[simp] theorem State.accept_fault (d : Delivery) (s : State) : (s.accept d).fault = s.fault := rfl
@[simp] theorem State.accept_position (d : Delivery) (s : State) : (s.accept d).position = s.position := rfl
@[simp] theorem State.accept_intAckDrive (d : Delivery) (s : State) : (s.accept d).intAckDrive = s.intAckDrive := rfl
@[simp] theorem State.accept_params (d : Delivery) (s : State) : (s.accept d).params = s.params := rfl
@[simp] theorem State.accept_memory (d : Delivery) (s : State) : (s.accept d).memory = s.memory := rfl
@[simp] theorem State.accept_pending (d : Delivery) (s : State) : (s.accept d).pending = s.pending.drop 1 := rfl
@[simp] theorem State.accept_buffer (d : Delivery) (s : State) : (s.accept d).buffer = d.buffer := rfl
@[simp] theorem State.accept_inputs (d : Delivery) (s : State) : (s.accept d).inputs = s.inputs := rfl
@[simp] theorem State.accept_drawCount (d : Delivery) (s : State) : (s.accept d).drawCount = s.drawCount := rfl
@[simp] theorem State.accept_trace (d : Delivery) (s : State) : (s.accept d).trace = s.trace := rfl

/-! ### `State.deliver` -/

@[simp] theorem State.deliver_signals (d : Delivery) (s : State) : (s.deliver d).signals = s.signals := rfl
@[simp] theorem State.deliver_ab (d : Delivery) (s : State) : (s.deliver d).ab = s.ab := rfl
@[simp] theorem State.deliver_db (d : Delivery) (s : State) : (s.deliver d).db = s.db := rfl
@[simp] theorem State.deliver_mutable (d : Delivery) (s : State) : (s.deliver d).mutable = s.mutable := rfl
@[simp] theorem State.deliver_refreshEnabled (d : Delivery) (s : State) : (s.deliver d).refreshEnabled = s.refreshEnabled := rfl
@[simp] theorem State.deliver_refreshRow (d : Delivery) (s : State) : (s.deliver d).refreshRow = s.refreshRow := rfl
@[simp] theorem State.deliver_refreshConfigured (d : Delivery) (s : State) : (s.deliver d).refreshConfigured = s.refreshConfigured := rfl
@[simp] theorem State.deliver_masked (d : Delivery) (s : State) : (s.deliver d).masked = s.masked := rfl
@[simp] theorem State.deliver_busGranted (d : Delivery) (s : State) : (s.deliver d).busGranted = s.busGranted := rfl
@[simp] theorem State.deliver_fault (d : Delivery) (s : State) : (s.deliver d).fault = s.fault := rfl
@[simp] theorem State.deliver_position (d : Delivery) (s : State) : (s.deliver d).position = s.position := rfl
@[simp] theorem State.deliver_intAckDrive (d : Delivery) (s : State) : (s.deliver d).intAckDrive = s.intAckDrive := rfl
@[simp] theorem State.deliver_params (d : Delivery) (s : State) : (s.deliver d).params = s.params := rfl
@[simp] theorem State.deliver_memory (d : Delivery) (s : State) : (s.deliver d).memory = s.memory := rfl
@[simp] theorem State.deliver_pending (d : Delivery) (s : State) : (s.deliver d).pending = d :: s.pending.drop 1 := rfl
@[simp] theorem State.deliver_buffer (d : Delivery) (s : State) : (s.deliver d).buffer = s.buffer := rfl
@[simp] theorem State.deliver_inputs (d : Delivery) (s : State) : (s.deliver d).inputs = s.inputs := rfl
@[simp] theorem State.deliver_drawCount (d : Delivery) (s : State) : (s.deliver d).drawCount = s.drawCount := rfl
@[simp] theorem State.deliver_trace (d : Delivery) (s : State) : (s.deliver d).trace = s.trace := rfl

/-! ### `State.performed` -/

@[simp] theorem State.performed_signals (k : Nat) (ack : Bool) (m : MicroStep) (s : State) :
    (s.performed k ack m).signals = (m.apply s).signals := rfl
@[simp] theorem State.performed_ab (k : Nat) (ack : Bool) (m : MicroStep) (s : State) :
    (s.performed k ack m).ab = (m.apply s).ab := rfl
@[simp] theorem State.performed_db (k : Nat) (ack : Bool) (m : MicroStep) (s : State) :
    (s.performed k ack m).db = (m.apply s).db := rfl
@[simp] theorem State.performed_mutable (k : Nat) (ack : Bool) (m : MicroStep) (s : State) :
    (s.performed k ack m).mutable = (m.apply s).mutable := rfl
@[simp] theorem State.performed_refreshEnabled (k : Nat) (ack : Bool) (m : MicroStep) (s : State) :
    (s.performed k ack m).refreshEnabled = (m.apply s).refreshEnabled := rfl
@[simp] theorem State.performed_refreshRow (k : Nat) (ack : Bool) (m : MicroStep) (s : State) :
    (s.performed k ack m).refreshRow = (m.apply s).refreshRow := rfl
@[simp] theorem State.performed_refreshConfigured (k : Nat) (ack : Bool) (m : MicroStep) (s : State) :
    (s.performed k ack m).refreshConfigured = (m.apply s).refreshConfigured := rfl
@[simp] theorem State.performed_masked (k : Nat) (ack : Bool) (m : MicroStep) (s : State) :
    (s.performed k ack m).masked = (m.apply s).masked := rfl
@[simp] theorem State.performed_busGranted (k : Nat) (ack : Bool) (m : MicroStep) (s : State) :
    (s.performed k ack m).busGranted = (m.apply s).busGranted := rfl
@[simp] theorem State.performed_fault (k : Nat) (ack : Bool) (m : MicroStep) (s : State) :
    (s.performed k ack m).fault = (m.apply s).fault := rfl
@[simp] theorem State.performed_position (k : Nat) (ack : Bool) (m : MicroStep) (s : State) :
    (s.performed k ack m).position = s.position + 1 := rfl
@[simp] theorem State.performed_intAckDrive (k : Nat) (ack : Bool) (m : MicroStep) (s : State) :
    (s.performed k ack m).intAckDrive = ack := rfl
@[simp] theorem State.performed_params (k : Nat) (ack : Bool) (m : MicroStep) (s : State) :
    (s.performed k ack m).params = (m.apply s).params := rfl
@[simp] theorem State.performed_memory (k : Nat) (ack : Bool) (m : MicroStep) (s : State) :
    (s.performed k ack m).memory = (m.apply s).memory := rfl
@[simp] theorem State.performed_pending (k : Nat) (ack : Bool) (m : MicroStep) (s : State) :
    (s.performed k ack m).pending = (m.apply s).pending := rfl
@[simp] theorem State.performed_buffer (k : Nat) (ack : Bool) (m : MicroStep) (s : State) :
    (s.performed k ack m).buffer = (m.apply s).buffer := rfl
@[simp] theorem State.performed_inputs (k : Nat) (ack : Bool) (m : MicroStep) (s : State) :
    (s.performed k ack m).inputs = (m.apply s).inputs.drop k := rfl
@[simp] theorem State.performed_drawCount (k : Nat) (ack : Bool) (m : MicroStep) (s : State) :
    (s.performed k ack m).drawCount = (m.apply s).drawCount + k := rfl
@[simp] theorem State.performed_trace (k : Nat) (ack : Bool) (m : MicroStep) (s : State) :
    (s.performed k ack m).trace = (m.apply s).trace ++ [⟨.foreground, m⟩] := rfl

/-! ### What no micro-step writes -/

@[simp] theorem MicroStep.apply_params (m : MicroStep) (s : State) : (m.apply s).params = s.params := by
  cases m <;> rfl
@[simp] theorem MicroStep.apply_pending (m : MicroStep) (s : State) : (m.apply s).pending = s.pending := by
  cases m <;> rfl
@[simp] theorem MicroStep.apply_buffer (m : MicroStep) (s : State) : (m.apply s).buffer = s.buffer := by
  cases m <;> rfl
@[simp] theorem MicroStep.apply_inputs (m : MicroStep) (s : State) : (m.apply s).inputs = s.inputs := by
  cases m <;> rfl
@[simp] theorem MicroStep.apply_drawCount (m : MicroStep) (s : State) : (m.apply s).drawCount = s.drawCount := by
  cases m <;> rfl
@[simp] theorem MicroStep.apply_trace (m : MicroStep) (s : State) : (m.apply s).trace = s.trace := by
  cases m <;> rfl
@[simp] theorem MicroStep.apply_position (m : MicroStep) (s : State) : (m.apply s).position = s.position := by
  cases m <;> rfl
@[simp] theorem MicroStep.apply_intAckDrive (m : MicroStep) (s : State) : (m.apply s).intAckDrive = s.intAckDrive := by
  cases m <;> rfl
@[simp] theorem MicroStep.apply_fault (m : MicroStep) (s : State) : (m.apply s).fault = s.fault := by
  cases m <;> rfl

/-! ### Idempotence and reads of signal cells -/

@[simp] theorem State.idle_idle (s : State) : s.idle.idle = s.idle := rfl

@[simp] theorem State.skip_zero (s : State) : s.skip 0 = s := rfl

theorem State.idle_eq_self {s : State} (hp : s.position = 0) (ha : s.intAckDrive = false) : s.idle = s := by
  cases s; simp_all [State.idle]

/-- Reading the cell just written. -/
@[simp] theorem Signals.get_set_same (c : Signals) (n : Signal) (l : Line) : (c.set n l).get n = l := by
  cases n <;> rfl

/-- Writing one signal cell leaves every other. -/
theorem Signals.get_set_other (c : Signals) {n k : Signal} (l : Line) (h : k ≠ n) : (c.set n l).get k = c.get k := by
  cases n <;> cases k <;> first | rfl | exact absurd rfl h

@[simp] theorem signalOfField_signalField (n : Signal) : signalOfField (signalField n) = some n := by
  cases n <;> rfl

/-- The target memory of reset has the canonical form. -/
theorem reset_memory_wf : State.reset.memory.wf = true := rfl

end Sys2Proof.Machine
end

