-- ==== Sys2Proof/Laws/Ops.lean ====
section
/-!
SUPPORT. For each shared operation, once, everything it can do: when it succeeds, with what state, and what it fails
with. Later proofs cite these and do not unfold the operations.
-/
namespace Sys2Proof.Machine

/-! ### Results -/

@[simp] theorem ok_bind {α β : Type} (a : α) (f : α → Except Fault β) :
    ((Except.ok a : Except Fault α) >>= f) = f a := rfl

@[simp] theorem error_bind {α β : Type} (e : Fault) (f : α → Except Fault β) :
    ((Except.error e : Except Fault α) >>= f) = .error e := rfl

/-- A composite succeeds exactly when both parts do. -/
theorem bind_ok_iff {α β : Type} {x : Except Fault α} {f : α → Except Fault β} {b : β} :
    (x >>= f) = .ok b ↔ ∃ a, x = .ok a ∧ f a = .ok b := by
  cases x <;> simp

@[simp] theorem pure_eq_ok {α : Type} (a : α) : (pure a : Except Fault α) = .ok a := rfl

@[simp] theorem raise_ne_ok {α : Type} (k : FaultKind) (s : State) (a : α) : raise k s ≠ .ok a := by
  simp [raise]

/-! ### The safety predicate -/

/-- The safety predicate reads the signals, both masks, `busGranted` and `intAckDrive` only. -/
theorem contention_congr {s t : State} (hs : t.signals = s.signals) (ha : t.ab.mask = s.ab.mask)
    (hd : t.db.mask = s.db.mask) (hg : t.busGranted = s.busGranted) (hi : t.intAckDrive = s.intAckDrive) :
    t.contention = s.contention := by
  simp only [State.contention, State.sharedOut, State.asserted, State.line, hs, ha, hd, hg, hi]

@[simp] theorem contention_skip (k : Nat) (s : State) : (s.skip k).contention = s.contention := rfl

@[simp] theorem contention_record (a : Agent) (m : MicroStep) (s : State) :
    (s.record a m).contention = s.contention := rfl

/-- With the bus granted and the data bus undriven there is no hazard. -/
theorem no_contention_of_granted {s : State} (hg : s.busGranted = true) (hd : s.db.mask = 0) :
    s.contention = false := by
  simp [State.contention, hg, hd]

/-- With the bus granted and no read strobe there is no hazard. -/
theorem no_contention_of_no_read {s : State} (hg : s.busGranted = true) (hr : s.asserted .rd = false)
    (hi : s.asserted .ioIn = false) : s.contention = false := by
  simp [State.contention, hg, hr, hi]

/-- Without the bus granted and outside BC.INT there is no hazard exactly when BMC drives no shared line. -/
theorem contention_of_not_granted {s : State} (hg : s.busGranted = false) (hi : s.intAckDrive = false) :
    s.contention = false ↔ s.ab.mask = 0 ∧ s.sharedOut = false ∧ s.db.mask = 0 := by
  simp only [State.contention, hg, hi, Bool.or_eq_false_iff, Bool.and_eq_false_iff, Bool.not_false,
    bne_eq_false_iff_eq, Bool.true_and, Bool.and_true]
  constructor
  · rintro ⟨⟨⟨ha, hs⟩, hd⟩, -⟩; exact ⟨ha, hs, hd⟩
  · rintro ⟨ha, hs, hd⟩; exact ⟨⟨⟨ha, hs⟩, hd⟩, .inl hd⟩

theorem settle_ok_iff {s t : State} : settle s = .ok t ↔ s.contention = false ∧ t = s := by
  unfold settle
  cases s.contention
  · simp [eq_comm]
  · simp

theorem settle_of_safe {s : State} (h : s.contention = false) : settle s = .ok s := by simp [settle, h]

/-! ### One micro-step -/

/-- A foreground micro-step succeeds exactly when nothing prevents it and no hazard follows; then it leaves
`State.performed`. -/
theorem perform_ok_iff {k : Nat} {ack : Bool} {m : MicroStep} {s t : State} :
    perform k ack m s = .ok t ↔
      m.prevented s = none ∧ (s.performed k ack m).contention = false ∧ t = s.performed k ack m := by
  unfold perform
  cases h : m.prevented s <;> simp [settle_ok_iff]

theorem perform_of_safe {k : Nat} {ack : Bool} {m : MicroStep} {s : State} (hp : m.prevented s = none)
    (hc : (s.performed k ack m).contention = false) : perform k ack m s = .ok (s.performed k ack m) :=
  perform_ok_iff.2 ⟨hp, hc, rfl⟩

/-- A tick's micro-step succeeds exactly when nothing prevents it and no hazard follows. -/
theorem tickStep_ok_iff {m : MicroStep} {s t : State} :
    tickStep m s = .ok t ↔
      m.prevented s = none ∧ (m.apply s).contention = false ∧ t = (m.apply s).record .refresh m := by
  unfold tickStep
  cases h : m.prevented s <;> simp [settle_ok_iff]

theorem tickStep_of_safe {m : MicroStep} {s : State} (hp : m.prevented s = none)
    (hc : (m.apply s).contention = false) : tickStep m s = .ok ((m.apply s).record .refresh m) :=
  tickStep_ok_iff.2 ⟨hp, hc, rfl⟩

/-! ### What refresh ticks can do -/

/-- `t` is `s` after some refresh ticks: everything they can change, and nothing else. -/
structure TicksOnly (s t : State) : Prop where
  same : t.sansTicks = s.sansTicks
  inputsDrop : ∃ k, t.inputs = s.inputs.drop k ∧ t.drawCount = s.drawCount + k
  events : ∃ es : List Event, t.trace = s.trace ++ es ∧ ∀ e ∈ es, e.agent = .refresh
  rasLevel : t.signals.ras.lvl = s.signals.ras.lvl ∨ t.signals.ras.lvl = .high

theorem TicksOnly.refl (s : State) : TicksOnly s s where
  same := rfl
  inputsDrop := ⟨0, rfl, rfl⟩
  events := ⟨[], by simp, by simp⟩
  rasLevel := .inl rfl

theorem TicksOnly.trans {s t u : State} (h : TicksOnly s t) (g : TicksOnly t u) : TicksOnly s u where
  same := g.same.trans h.same
  inputsDrop := by
    obtain ⟨k, hi, hd⟩ := h.inputsDrop
    obtain ⟨j, gi, gd⟩ := g.inputsDrop
    exact ⟨k + j, by rw [gi, hi, List.drop_drop], by omega⟩
  events := by
    obtain ⟨es, he, hr⟩ := h.events
    obtain ⟨fs, ge, gr⟩ := g.events
    refine ⟨es ++ fs, by rw [ge, he, List.append_assoc], fun e hm => ?_⟩
    rcases List.mem_append.1 hm with h | h
    · exact hr e h
    · exact gr e h
  rasLevel := by
    rcases g.rasLevel with h2 | h2
    · rw [h2]; exact h.rasLevel
    · exact .inr h2

section
variable {s t : State} (h : TicksOnly s t)
include h

theorem TicksOnly.mutable : t.mutable = s.mutable := by
  have e := congrArg State.mutable h.same; exact e
theorem TicksOnly.refreshEnabled : t.refreshEnabled = s.refreshEnabled := by
  have e := congrArg State.refreshEnabled h.same; exact e
theorem TicksOnly.refreshConfigured : t.refreshConfigured = s.refreshConfigured := by
  have e := congrArg State.refreshConfigured h.same; exact e
theorem TicksOnly.masked : t.masked = s.masked := by
  have e := congrArg State.masked h.same; exact e
theorem TicksOnly.busGranted : t.busGranted = s.busGranted := by
  have e := congrArg State.busGranted h.same; exact e
theorem TicksOnly.fault : t.fault = s.fault := by
  have e := congrArg State.fault h.same; exact e
theorem TicksOnly.position : t.position = s.position := by
  have e := congrArg State.position h.same; exact e
theorem TicksOnly.intAckDrive : t.intAckDrive = s.intAckDrive := by
  have e := congrArg State.intAckDrive h.same; exact e
theorem TicksOnly.params : t.params = s.params := by
  have e := congrArg State.params h.same; exact e
theorem TicksOnly.memory : t.memory = s.memory := by
  have e := congrArg State.memory h.same; exact e
theorem TicksOnly.pending : t.pending = s.pending := by
  have e := congrArg State.pending h.same; exact e
theorem TicksOnly.buffer : t.buffer = s.buffer := by
  have e := congrArg State.buffer h.same; exact e
theorem TicksOnly.db : t.db = s.db := by
  have e := congrArg State.db h.same; exact e
theorem TicksOnly.abMask : t.ab.mask = s.ab.mask := by
  have e := congrArg (fun u : State => u.ab.mask) h.same; exact e
theorem TicksOnly.abWritable : t.ab.writable = s.ab.writable := by
  have e := congrArg (fun u : State => u.ab.writable) h.same; exact e
theorem TicksOnly.abHigh : t.ab.latch &&& 0xFF00 = s.ab.latch &&& 0xFF00 := by
  have e := congrArg (fun u : State => u.ab.latch) h.same; exact e

theorem TicksOnly.line_eq {n : Signal} (hn : n ≠ .ras) : t.line n = s.line n := by
  have e : t.sansTicks.line n = s.sansTicks.line n := by rw [h.same]
  cases n <;> first | exact e | exact absurd rfl hn

theorem TicksOnly.line_dir (n : Signal) : (t.line n).dir = (s.line n).dir := by
  have e : (t.sansTicks.line n).dir = (s.sansTicks.line n).dir := by rw [h.same]
  cases n <;> exact e

theorem TicksOnly.sharedOut : t.sharedOut = s.sharedOut := by
  simp only [State.sharedOut, h.line_dir]

theorem TicksOnly.asserted_eq {n : Signal} (hn : n ≠ .ras) : t.asserted n = s.asserted n := by
  simp only [State.asserted, h.line_eq hn]

theorem TicksOnly.contention : t.contention = s.contention := by
  simp only [State.contention, h.sharedOut, h.busGranted, h.abMask, h.db, h.intAckDrive,
    h.asserted_eq (n := .rd) (by decide), h.asserted_eq (n := .ioIn) (by decide)]

theorem TicksOnly.tickEnabled : t.tickEnabled = s.tickEnabled := by
  simp only [State.tickEnabled, h.refreshEnabled, h.masked, h.fault]

theorem TicksOnly.foregroundSteps : t.foregroundSteps = s.foregroundSteps := by
  obtain ⟨es, he, hr⟩ := h.events
  have : es.filterMap (fun e : Event => if e.agent = .refresh then none else some e.act) = [] := by
    rw [List.filterMap_eq_nil_iff]
    intro e hm; simp [hr e hm]
  simp [State.foregroundSteps, he, List.filterMap_append, this]
end

theorem high_mask_low (i : Nat) (h : i < 8) : (0xFF00 : Addr).getLsbD i = false := by
  interval_cases i <;> decide

@[simp] theorem withLowByte_high (v : Addr) (b : Byte) :
    withLowByte v b &&& (0xFF00 : Addr) = v &&& (0xFF00 : Addr) := by
  apply BitVec.eq_of_getLsbD_eq
  intro i hi
  simp only [withLowByte, BitVec.getLsbD_and, BitVec.getLsbD_or, BitVec.getLsbD_setWidth]
  by_cases h8 : i < 8
  · rw [high_mask_low i h8]; simp only [Bool.and_false]
  · simp only [BitVec.getLsbD_of_ge b i (by omega), Bool.and_false, Bool.or_false, Bool.and_assoc, Bool.and_self]

/-- One tick of an Immutable machine logs and changes nothing (R271). -/
theorem tick_immutable {s : State} (hm : s.mutable = false) : tick s = tickStep (.log .errNotMutable) s := by
  simp [tick, hm]

/-- The state one performed tick leaves (R271). -/
def ticked (s : State) : State :=
  { s with
    ab := { s.ab with latch := withLowByte s.ab.latch (s.refreshRow.setWidth 8) }
    signals := { s.signals with ras := ⟨.output, .high⟩ }
    refreshRow := s.refreshRow + 1
    trace := s.trace ++ [⟨.refresh, .abLatch (withLowByte s.ab.latch (s.refreshRow.setWidth 8))⟩,
      ⟨.refresh, .write .ras .low⟩, ⟨.refresh, .hold .tRefRas (s.params.timing.bound .tRefRas)⟩,
      ⟨.refresh, .write .ras .high⟩, ⟨.refresh, .nextRow⟩] }

/-- While Mutable, with RAS an output and no hazard standing, a tick is performed whole (R271). -/
theorem tick_mutable {s : State} (hm : s.mutable = true) (hr : s.signals.ras.dir = .output)
    (hc : s.contention = false) : tick s = .ok (ticked s) := by
  -- no micro-step of the tick changes what the safety predicate reads
  have c : ∀ (v : Addr) (l : Level) (r : Row) (es : List Event), State.contention
      { s with ab := ⟨v, s.ab.mask, s.ab.writable⟩, signals := { s.signals with ras := ⟨.output, l⟩ },
               refreshRow := r, trace := es } = false := by
    intro v l r es
    rw [← hc]
    simp only [State.contention, State.sharedOut, State.asserted, State.line, Signals.get, sharedSignals, List.any, hr]
  obtain ⟨sg, ab, db, mu, re, row, rc, mk, bg, fl, po, ia, pr, me, pe, bu, inp, dc, tr⟩ := s
  obtain ⟨⟨rd, rl⟩, ca, mx, rdl, wr, ii, io, it, te, wa, sy, ik⟩ := sg
  subst hm hr
  simp only [tick, if_true]
  rw [tickStep_of_safe, ok_bind, tickStep_of_safe, ok_bind, tickStep_of_safe, ok_bind, tickStep_of_safe, ok_bind,
    tickStep_of_safe]
  · simp [ticked, MicroStep.apply, State.record, State.setLine, State.line, Signals.get, Signals.set]
  all_goals first | rfl | exact c _ _ _ _

theorem ticksOnly_ticked {s : State} (hr : s.signals.ras.dir = .output) : TicksOnly s (ticked s) where
  same := by
    have e := withLowByte_high s.ab.latch (s.refreshRow.setWidth 8)
    simp only [State.sansTicks, ticked, ← hr]
    rw [e]
  inputsDrop := ⟨0, rfl, rfl⟩
  events := ⟨_, rfl, by simp⟩
  rasLevel := .inr rfl

/-- What one tick can do when it succeeds. -/
theorem tick_ok {s t : State} (h : tick s = .ok t) :
    TicksOnly s t ∧ (s.mutable = true → t.refreshRow = s.refreshRow + 1) ∧ t.contention = false := by
  by_cases hm : s.mutable = true
  · -- the first two micro-steps say that no hazard stands and RAS is an output
    have h' := h
    simp only [tick, hm, if_true, bind_ok_iff, tickStep_ok_iff] at h
    obtain ⟨_, ⟨-, hc, rfl⟩, _, ⟨hp, -, rfl⟩, -⟩ := h
    have hr : s.signals.ras.dir = .output := by
      cases hd : s.signals.ras.dir with
      | output => rfl
      | input => simp [MicroStep.prevented, MicroStep.apply, State.line, Signals.get, hd] at hp
    have hc' : s.contention = false := hc
    rw [tick_mutable hm hr hc', Except.ok.injEq] at h'
    subst h'
    have ht := ticksOnly_ticked hr
    exact ⟨ht, fun _ => rfl, by rw [ht.contention, hc']⟩
  · have hm' : s.mutable = false := by simpa using hm
    rw [tick_immutable hm', tickStep_ok_iff] at h
    obtain ⟨-, hc, rfl⟩ := h
    exact ⟨⟨rfl, ⟨0, rfl, rfl⟩, ⟨_, rfl, by simp⟩, .inl rfl⟩, fun h => absurd h hm, hc⟩

/-- What `n` ticks can do when they all succeed. -/
theorem runTicks_ok {n : Nat} {s t : State} (h : runTicks n s = .ok t) : TicksOnly s t := by
  induction n generalizing s with
  | zero => obtain rfl : s = t := by simpa [runTicks] using h
            exact TicksOnly.refl s
  | succ n ih =>
    simp only [runTicks, bind_ok_iff] at h
    obtain ⟨u, hu, h⟩ := h
    exact (tick_ok hu).1.trans (ih h)

/-- While Mutable, with RAS an output and no hazard standing, any number of ticks succeed. -/
theorem runTicks_succeeds (n : Nat) {s : State} (hm : s.mutable = true) (hr : s.signals.ras.dir = .output)
    (hc : s.contention = false) : ∃ t, runTicks n s = .ok t := by
  induction n generalizing s with
  | zero => exact ⟨s, rfl⟩
  | succ n ih =>
    simp only [runTicks, tick_mutable hm hr hc, ok_bind]
    exact ih hm rfl (by rw [(ticksOnly_ticked hr).contention, hc])

theorem boundary_of_disabled {s : State} (h : s.tickEnabled = false) : boundary s = .ok s := by
  simp [boundary, h]

/-- What a boundary can do when it succeeds. -/
theorem boundary_ok {s t : State} (h : boundary s = .ok t) : TicksOnly s t := by
  unfold boundary at h
  split at h
  · have g := runTicks_ok h
    have f : TicksOnly s (s.skip 1) := ⟨rfl, ⟨1, rfl, rfl⟩, ⟨[], by simp, by simp⟩, .inl rfl⟩
    exact f.trans g
  · obtain rfl : s = t := by simpa using h
    exact TicksOnly.refl s

/-- When a boundary cannot fault: where ticks are enabled, the machine is Mutable and RAS an output. -/
theorem boundary_succeeds {s : State} (hc : s.contention = false)
    (h : s.tickEnabled = true → s.mutable = true ∧ s.signals.ras.dir = .output) : ∃ t, boundary s = .ok t := by
  unfold boundary
  split
  · rename_i he
    exact runTicks_succeeds _ (s := s.skip 1) (h he).1 (h he).2 hc
  · exact ⟨s, rfl⟩

theorem gap_of_start {s : State} (h : s.position = 0) : gap s = .ok s := by simp [gap, h]

theorem gap_of_disabled {s : State} (h : s.tickEnabled = false) : gap s = .ok s := by
  unfold gap; split
  · rfl
  · exact boundary_of_disabled h

theorem gap_ok {s t : State} (h : gap s = .ok t) : TicksOnly s t := by
  unfold gap at h
  split at h
  · obtain rfl : s = t := by simpa using h
    exact TicksOnly.refl s
  · exact boundary_ok h

theorem gap_succeeds {s : State} (hc : s.contention = false)
    (h : s.tickEnabled = true → s.mutable = true ∧ s.signals.ras.dir = .output) : ∃ t, gap s = .ok t := by
  unfold gap
  split
  · exact ⟨s, rfl⟩
  · exact boundary_succeeds hc h

/-! ### Sequences and commands -/

/-- What a micro-step with its boundary can do when it succeeds. -/
theorem micro_ok_iff {ack : Bool} {p : Pick} {s t : State} :
    micro ack p s = .ok t ↔ ∃ u, gap s = .ok u ∧ (p u).2.prevented u = none ∧
      (u.performed (p u).1 ack (p u).2).contention = false ∧ t = u.performed (p u).1 ack (p u).2 := by
  simp only [micro, bind_ok_iff, perform_ok_iff]

theorem micro_of_gap {ack : Bool} {p : Pick} {s u : State} (h : gap s = .ok u) :
    micro ack p s = perform (p u).1 ack (p u).2 u := by simp [micro, h]

/-- Everything a reading micro-step can do when it succeeds: ticks at the boundary, then the read in the state they
left. -/
theorem readStep_ok_iff {α : Type} {k : Nat} {m : α → MicroStep} {value : State → α} {s : State} {r : α × State} :
    readStep k m value s = .ok r ↔
      ∃ u, gap s = .ok u ∧ r.1 = value u ∧ perform k false (m (value u)) u = .ok r.2 := by
  simp only [readStep, bind_ok_iff, pure_eq_ok, Except.ok.injEq]
  constructor
  · rintro ⟨u, hu, t, ht, rfl⟩
    exact ⟨u, hu, rfl, ht⟩
  · rintro ⟨u, hu, hv, ht⟩
    exact ⟨u, hu, r.2, ht, by rw [← hv]⟩

theorem readStep_of_gap {α : Type} {k : Nat} {m : α → MicroStep} {value : State → α} {s u : State}
    (h : gap s = .ok u) :
    readStep k m value s = (perform k false (m (value u)) u).bind fun t => .ok (value u, t) := by
  rw [readStep, h]; rfl

@[simp] theorem seq_nil (s : State) : seq [] s = .ok s := rfl

theorem seq_cons (p : Pick) (ps : List Pick) (s : State) : seq (p :: ps) s = micro false p s >>= seq ps := rfl

@[simp] theorem seq_singleton (p : Pick) (s : State) : seq [p] s = micro false p s := by
  rw [seq_cons]; cases micro false p s <;> rfl

theorem seq_append (ps qs : List Pick) (s : State) : seq (ps ++ qs) s = seq ps s >>= seq qs := by
  induction ps generalizing s with
  | nil => rfl
  | cons p ps ih =>
    rw [List.cons_append, seq_cons, seq_cons]
    cases micro false p s with
    | error e => rfl
    | ok t => exact ih t

/-- A sequence whose first micro-step has no tick before it and succeeds. -/
theorem seq_cons_of_safe {p : Pick} {ps : List Pick} {s : State} (hg : gap s = .ok s)
    (hp : (p s).2.prevented s = none) (hc : (s.performed (p s).1 false (p s).2).contention = false) :
    seq (p :: ps) s = seq ps (s.performed (p s).1 false (p s).2) := by
  rw [seq_cons, micro_of_gap hg, perform_of_safe hp hc, ok_bind]

@[simp] theorem forEach_nil (body : Nat → State → Except Fault State) (s : State) : forEach body [] s = .ok s := rfl

theorem forEach_cons (body : Nat → State → Except Fault State) (k : Nat) (ks : List Nat) (s : State) :
    forEach body (k :: ks) s = body k s >>= forEach body ks := rfl

/-- A command completes exactly when its body succeeds. -/
theorem command_next_iff {body : State → Except Fault State} {s t : State} :
    command body s = .next t ↔ ∃ u, body s.idle = .ok u ∧ t = u.idle := by
  unfold command
  cases h : body s.idle <;> simp [eq_comm]

theorem command_of_ok {body : State → Except Fault State} {s u : State} (h : body s.idle = .ok u) :
    command body s = .next u.idle := by simp [command, h]

theorem command_of_error {body : State → Except Fault State} {s : State} {f : Fault} (h : body s.idle = .error f) :
    command body s = .fault f := by simp [command, h]

theorem onSignal_field (n : Signal) (body : Signal → State → Except Fault State) (s : State) :
    onSignal (signalField n) body s = body n s := by simp [onSignal]

/-! ### Packaged inductions -/

/-- A property that every boundary and every one of the micro-steps keeps is kept by the sequence. -/
theorem seq_keeps {P : State → Prop} {ps : List Pick}
    (hgap : ∀ s t, P s → gap s = .ok t → P t)
    (hstep : ∀ p ∈ ps, ∀ s, P s → (p s).2.prevented s = none →
      (s.performed (p s).1 false (p s).2).contention = false → P (s.performed (p s).1 false (p s).2))
    {s t : State} (hs : P s) (h : seq ps s = .ok t) : P t := by
  induction ps generalizing s with
  | nil => obtain rfl : s = t := by simpa using h
           exact hs
  | cons p ps ih =>
    rw [seq_cons, bind_ok_iff] at h
    obtain ⟨u, hu, h⟩ := h
    obtain ⟨v, hv, hp, hc, rfl⟩ := micro_ok_iff.1 hu
    exact ih (fun q hq => hstep q (List.mem_cons_of_mem _ hq))
      (hstep p List.mem_cons_self v (hgap s v hs hv) hp hc) h

/-- A property that every round of a loop keeps is kept by the loop. -/
theorem forEach_keeps {P : State → Prop} {body : Nat → State → Except Fault State} {ks : List Nat}
    (hbody : ∀ k s t, P s → body k s = .ok t → P t) {s t : State} (hs : P s) (h : forEach body ks s = .ok t) : P t := by
  induction ks generalizing s with
  | nil => obtain rfl : s = t := by simpa using h
           exact hs
  | cons k ks ih =>
    rw [forEach_cons, bind_ok_iff] at h
    obtain ⟨u, hu, h⟩ := h
    exact ih (hbody k s u hs hu) h

/-- A loop whose every round succeeds from a property that it keeps succeeds. -/
theorem forEach_succeeds {P : State → Prop} {body : Nat → State → Except Fault State} {ks : List Nat}
    (hbody : ∀ k s, P s → ∃ t, body k s = .ok t ∧ P t) {s : State} (hs : P s) :
    ∃ t, forEach body ks s = .ok t ∧ P t := by
  induction ks generalizing s with
  | nil => exact ⟨s, rfl, hs⟩
  | cons k ks ih =>
    obtain ⟨u, hu, pu⟩ := hbody k s hs
    obtain ⟨t, ht, pt⟩ := ih pu
    exact ⟨t, by rw [forEach_cons, hu, ok_bind, ht], pt⟩

end Sys2Proof.Machine
end

