-- ==== Sys2Proof/Laws/Exec.lean ====
section
/-!
SUPPORT. What any command can do, said once: every command is a path of boundaries, foreground micro-steps, draws and
bytes taken by the target, and it fails only in the ways `Fails` lists. A property that each of these keeps is kept by
every command.
-/
namespace Sys2Proof.Machine

/-- One thing that can happen inside a command, when it succeeds. -/
inductive Move : State → State → Prop
  /-- The boundary before a micro-step: refresh ticks, where enabled. -/
  | gap {s t : State} (h : gap s = .ok t) : Move s t
  /-- A foreground micro-step that nothing prevented and no hazard followed. -/
  | act {s : State} (k : Nat) (ack : Bool) (m : MicroStep) (hp : m.prevented s = none)
      (hc : (s.performed k ack m).contention = false) : Move s (s.performed k ack m)
  /-- A draw that belongs to no micro-step (the allocation of BC.RDMEMN). -/
  | draw {s : State} (k : Nat) : Move s (s.skip k)
  /-- The target takes the byte of a memory write cycle. -/
  | memTaken {s : State} : Move s (targetTakesByte s)
  /-- A device takes the byte of an I/O write cycle. -/
  | ioTaken {s : State} : Move s (deviceTakesByte s)

/-- Any number of moves in order. -/
inductive Path : State → State → Prop
  | refl (s : State) : Path s s
  | tail {s t u : State} (h : Path s t) (m : Move t u) : Path s u

/-- How a command can fail at `s`. -/
inductive Fails : State → Fault → Prop
  /-- A refresh tick at the boundary before a micro-step faulted. -/
  | gap {s : State} {f : Fault} (h : Machine.gap s = .error f) : Fails s f
  /-- A micro-step was prevented: the state is the one before it (R333). -/
  | prevented {s : State} {m : MicroStep} {k : FaultKind} (h : m.prevented s = some k) :
      Fails s (faultOf k { s with fault := some k })
  /-- A hazard followed a micro-step: the state is the one after it (R333). -/
  | hazard {s : State} (k : Nat) (ack : Bool) (m : MicroStep) (hp : m.prevented s = none)
      (hc : (s.performed k ack m).contention = true) :
      Fails s (faultOf .contention { s.performed k ack m with fault := some .contention })
  /-- The SIG field named no signal. -/
  | illegal {s : State} : Fails s (faultOf .illegal { s with fault := some .illegal })
  /-- The host buffer was too short. -/
  | buffer {s : State} : Fails s (faultOf .buffer { s with fault := some .buffer })

theorem Path.single {s t : State} (m : Move s t) : Path s t := .tail (.refl s) m

theorem Path.trans {s t u : State} (h : Path s t) (g : Path t u) : Path s u := by
  induction g with
  | refl => exact h
  | tail _ m ih => exact .tail ih m

/-- A property that every move keeps is kept along a path. -/
theorem Path.keeps {P : State → Prop} (hP : ∀ s t, P s → Move s t → P t) {s t : State} (h : Path s t) (hs : P s) :
    P t := by
  induction h with
  | refl => exact hs
  | tail _ m ih => exact hP _ _ ih m

/-- A result that starts at `s`: where it succeeds, `proj` gives the state it leaves. -/
def Leads {α : Type} (proj : α → State) (s : State) (r : Except Fault α) : Prop :=
  match r with
  | .ok a => Path s (proj a)
  | .error f => ∃ u, Path s u ∧ Fails u f

theorem Leads.ok {α : Type} {proj : α → State} {s : State} {a : α} (h : Path s (proj a)) :
    Leads proj s (.ok a) := h

theorem Leads.bind {α β : Type} {p : α → State} {q : β → State} {s : State} {x : Except Fault α}
    {f : α → Except Fault β} (hx : Leads p s x) (hf : ∀ a, Leads q (p a) (f a)) : Leads q s (x >>= f) := by
  cases x with
  | error e => exact hx
  | ok a =>
    have h := hf a
    rw [ok_bind]
    unfold Leads at h ⊢
    split
    · rename_i b hb
      rw [hb] at h
      exact Path.trans hx h
    · rename_i e he
      rw [he] at h
      obtain ⟨u, hu, hf⟩ := h
      exact ⟨u, Path.trans hx hu, hf⟩

theorem Leads.mono {α : Type} {p : α → State} {s t : State} {r : Except Fault α} (h : Path s t)
    (hr : Leads p t r) : Leads p s r := by
  unfold Leads at hr ⊢
  split at hr
  · exact h.trans hr
  · obtain ⟨u, hu, hf⟩ := hr
    exact ⟨u, h.trans hu, hf⟩

theorem gap_leads (s : State) : Leads id s (gap s) := by
  cases h : gap s with
  | ok t => exact Path.single (.gap h)
  | error f => exact ⟨s, .refl s, .gap h⟩

theorem perform_leads (k : Nat) (ack : Bool) (m : MicroStep) (s : State) : Leads id s (perform k ack m s) := by
  unfold perform
  cases hp : m.prevented s with
  | some f => exact ⟨s, .refl s, .prevented hp⟩
  | none =>
    show Leads id s (settle _)
    unfold settle
    cases hc : (s.performed k ack m).contention with
    | true => exact ⟨s, .refl s, .hazard k ack m hp hc⟩
    | false => exact Path.single (.act k ack m hp hc)

theorem micro_leads (ack : Bool) (p : Pick) (s : State) : Leads id s (micro ack p s) :=
  (gap_leads s).bind fun t => perform_leads (p t).1 ack (p t).2 t

theorem seq_leads (ps : List Pick) (s : State) : Leads id s (seq ps s) := by
  induction ps generalizing s with
  | nil => exact Path.refl s
  | cons p ps ih => exact (micro_leads false p s).bind ih

theorem forEach_leads {body : Nat → State → Except Fault State} (hb : ∀ k s, Leads id s (body k s)) (ks : List Nat)
    (s : State) : Leads id s (forEach body ks s) := by
  induction ks generalizing s with
  | nil => exact Path.refl s
  | cons k ks ih => exact (hb k s).bind ih

theorem onSignal_leads {body : Signal → State → Except Fault State} (hb : ∀ n s, Leads id s (body n s))
    (sig : BitVec 4) (s : State) : Leads id s (onSignal sig body s) := by
  unfold onSignal
  split
  · exact hb _ s
  · exact ⟨s, .refl s, .illegal⟩

theorem readStep_leads {α : Type} (k : Nat) (m : α → MicroStep) (value : State → α) (s : State) :
    Leads Prod.snd s (readStep k m value s) :=
  (gap_leads s).bind fun t => (perform_leads k false (m (value t)) t).bind
    fun u => Leads.ok (proj := Prod.snd) (.refl u)

theorem query_leads {α : Type} (k : Nat) (m : α → MicroStep) (value : State → α) (v : α → Response) (s : State) :
    Leads id s (query k m value v s) :=
  (readStep_leads k m value s).bind fun t => seq_leads _ t.2

theorem abStateBody_leads (s : State) : Leads Prod.snd s (abStateBody s) :=
  (readStep_leads _ _ _ s).bind fun t => Leads.ok (proj := Prod.snd) (.refl t.2)

theorem dbStateBody_leads (s : State) : Leads Prod.snd s (dbStateBody s) :=
  (readStep_leads _ _ _ s).bind fun t => Leads.ok (proj := Prod.snd) (.refl t.2)

theorem signalTexts_leads (ns : List Signal) (s : State) : Leads Prod.snd s (signalTexts ns s) := by
  induction ns generalizing s with
  | nil => exact Path.refl s
  | cons n ns ih =>
    exact (readStep_leads _ _ _ s).bind fun t => (ih t.2).bind fun u => Leads.ok (proj := Prod.snd) (.refl u.2)

theorem sampleMemory_leads (s : State) : Leads Prod.snd s (sampleMemory s) :=
  (readStep_leads _ _ _ s).bind fun t => Leads.ok (proj := Prod.snd) (.refl t.2)

theorem sampleIoPort_leads (s : State) : Leads Prod.snd s (sampleIoPort s) :=
  (readStep_leads _ _ _ s).bind fun t => Leads.ok (proj := Prod.snd) (.refl t.2)

theorem rdmemBody_leads (a : Addr) (s : State) : Leads Prod.snd s (rdmemBody a s) := by
  unfold rdmemBody
  split
  · exact (seq_leads _ s).bind fun t => (sampleMemory_leads t).bind fun u => (seq_leads _ u.2).bind
      fun v => Leads.ok (proj := Prod.snd) (.refl v)
  · exact (seq_leads _ s).bind fun t => Leads.ok (proj := Prod.snd) (.refl t)

theorem wrmemBody_leads (a : Addr) (d : Byte) (s : State) : Leads id s (wrmemBody a d s) := by
  unfold wrmemBody
  split
  · exact (seq_leads _ s).bind fun t => (seq_leads _ (targetTakesByte t)).mono (Path.single .memTaken)
  · exact seq_leads _ s

theorem rdioBody_leads (p : Byte) (s : State) : Leads Prod.snd s (rdioBody p s) := by
  unfold rdioBody
  split
  · split <;> exact (seq_leads _ s).bind fun t => (sampleIoPort_leads t).bind fun u => (seq_leads _ u.2).bind
      fun v => Leads.ok (proj := Prod.snd) (.refl v)
  · exact (seq_leads _ s).bind fun t => Leads.ok (proj := Prod.snd) (.refl t)

theorem wrioBody_leads (p d : Byte) (s : State) : Leads id s (wrioBody p d s) := by
  unfold wrioBody
  split
  · split <;> exact (seq_leads _ s).bind fun t => (seq_leads _ (deviceTakesByte t)).mono (Path.single .ioTaken)
  · exact seq_leads _ s

theorem testoffBody_leads (s : State) : Leads id s (testoffBody s) := by
  unfold testoffBody
  split <;> exact seq_leads _ s

theorem readBytes_leads (a : Addr) (ks : List Nat) (s : State) : Leads Prod.snd s (readBytes a ks s) := by
  induction ks generalizing s with
  | nil => exact Path.refl s
  | cons k ks ih =>
    exact (rdmemBody_leads _ s).bind fun t => (ih t.2).bind fun u => Leads.ok (proj := Prod.snd) (.refl u.2)

theorem copyByte_leads (src dst : Addr) (k : Nat) (s : State) : Leads id s (copyByte src dst k s) :=
  (rdmemBody_leads _ s).bind fun t => wrmemBody_leads _ t.1 t.2

theorem pollIntAck_leads (n : Nat) (s : State) : Leads Prod.snd s (pollIntAck n s) := by
  induction n generalizing s with
  | zero => exact Path.refl s
  | succ n ih =>
    refine (readStep_leads 1 _ _ s).bind fun t => ?_
    show Leads Prod.snd t.2 (ite _ _ _)
    split
    · exact Path.refl t.2
    · exact (micro_leads false _ t.2).bind ih

/-- A command's outcome, with the path it took from the idle foreground agent. -/
def Runs (s : State) (o : Host.Outcome State Fault Refusal) : Prop :=
  match o with
  | .next t => ∃ u, Path s.idle u ∧ t = u.idle
  | .fault f => ∃ u, Path s.idle u ∧ Fails u f
  | .refused _ => False

theorem command_runs {body : State → Except Fault State} {s : State} (h : Leads id s.idle (body s.idle)) :
    Runs s (command body s) := by
  unfold command
  cases hb : body s.idle with
  | ok u => rw [hb] at h; exact ⟨u, h, rfl⟩
  | error f => rw [hb] at h; exact h

/-- Everything any command can do (30_encoding.md R90, 00_scope.md R9, 60_exceptions.md R333). No command is refused. -/
theorem exec_runs (i : Instr) (s : State) : Runs s (exec i s) := by
  cases i
  case spDir | spSet => exact command_runs (onSignal_leads (fun _ => seq_leads _) _ _)
  case spGet | spGetdir => exact command_runs (onSignal_leads (fun _ => query_leads _ _ _ _) _ _)
  case spAin | spAgetdir | spDin | spDgetdir | abRdaddr | abRdioaddr | dbRd =>
    exact command_runs (query_leads _ _ _ _ _)
  case abState =>
    unfold exec execAbState
    exact command_runs ((abStateBody_leads _).bind fun t => seq_leads _ t.2)
  case dbState =>
    unfold exec execDbState
    exact command_runs ((dbStateBody_leads _).bind fun t => seq_leads _ t.2)
  case bcState =>
    unfold exec execBcState
    exact command_runs ((signalTexts_leads _ _).bind fun t => (abStateBody_leads t.2).bind
      fun u => (dbStateBody_leads u.2).bind fun v => seq_leads _ v.2)
  case bcTeston =>
    unfold exec execBcTeston
    refine command_runs ?_
    split <;> exact seq_leads _ _
  case bcInit =>
    unfold exec execBcInit
    refine command_runs ?_
    split <;> exact seq_leads _ _
  case bcTestoff => exact command_runs (testoffBody_leads _)
  case bcRdmem =>
    unfold exec execBcRdmem
    exact command_runs ((rdmemBody_leads _ _).bind fun t => seq_leads _ t.2)
  case bcWrmem => exact command_runs (wrmemBody_leads _ _ _)
  case bcRdio =>
    unfold exec execBcRdio
    exact command_runs ((rdioBody_leads _ _).bind fun t => seq_leads _ t.2)
  case bcWrio => exact command_runs (wrioBody_leads _ _ _)
  case bcRdmemn =>
    unfold exec execBcRdmemn
    refine command_runs ?_
    split
    · exact seq_leads _ _
    · split
      · exact seq_leads _ _
      · exact ((readBytes_leads _ _ _).bind fun t => seq_leads _ t.2).mono (Path.single (.draw 1))
  case bcWrmemn =>
    unfold exec execBcWrmemn
    refine command_runs ?_
    split
    · exact seq_leads _ _
    · split
      · exact seq_leads _ _
      · split
        · exact ⟨_, .refl _, .buffer⟩
        · exact forEach_leads (fun k t => wrmemBody_leads _ _ t) _ _
  case bcCopy =>
    unfold exec execBcCopy
    refine command_runs ?_
    split
    · exact seq_leads _ _
    · exact (seq_leads _ _).bind fun t => forEach_leads (copyByte_leads _ _) _ t
  case bcFill =>
    unfold exec execBcFill
    refine command_runs ?_
    split
    · exact seq_leads _ _
    · exact forEach_leads (fun k t => wrmemBody_leads _ _ t) _ _
  case bcInt =>
    unfold exec execBcInt
    refine command_runs ?_
    split
    · exact seq_leads _ _
    · refine (seq_leads _ _).bind fun t => (pollIntAck_leads _ t).bind fun u => ?_
      show Leads id u.2 (ite _ _ _)
      split
      · exact (micro_leads _ _ _).bind fun v => (micro_leads _ _ v).bind fun v => (micro_leads _ _ v).bind
          fun v => (micro_leads _ _ v).bind fun v => seq_leads _ v
      · exact seq_leads _ _
  case bcShutdown =>
    unfold exec execBcShutdown
    refine command_runs ?_
    refine Leads.bind (p := id) ?_ fun t => seq_leads _ t
    split
    · exact testoffBody_leads _
    · exact Path.refl _
  all_goals exact command_runs (seq_leads _ _)

/-- No command is ever refused. -/
theorem exec_not_refused (i : Instr) (s : State) (r : Refusal) : exec i s ≠ .refused r := by
  intro h
  have := exec_runs i s
  rw [h] at this
  exact this

end Sys2Proof.Machine
end

