-- ==== Sys2Proof/Machine/Fairness.lean ====
section
/-!
DEFINITION. Infinite runs and the fairness the spec assumes of the refresh-tick agent (44_interrupt_refresh.md R273). It
is an assumption about runs and no rule of the step, which also has unfair runs: a claim that a tick comes takes
`WeaklyFair` as a premise (log entry 11).
-/
namespace Sys2Proof.Machine

/-- What comes from outside before a step: deliveries behind those that stand on the command port (30_encoding.md R90),
and environment values behind those that stand in `inputs`. -/
def State.supply (ds : List Delivery) (xs : List Nat) (s : State) : State :=
  { s with pending := s.pending ++ ds, inputs := s.inputs ++ xs }

/-- `r` is an infinite run: each state is followed by the next state of a step, for some supply from outside. -/
def InfiniteRun (r : Nat → State) : Prop := ∀ n, ∃ ds xs, step ((r n).supply ds xs) = .next (r (n + 1))

/-- The refresh-tick agent steps between the states `n` and `n + 1` of a run. -/
def TickStepsAt (r : Nat → State) (n : Nat) : Prop := (r n).refreshSteps.length < (r (n + 1)).refreshSteps.length

/-- From some point on `refreshEnabled = true` holds. -/
def StaysArmed (r : Nat → State) : Prop := ∃ n, ∀ k, n ≤ k → (r k).refreshEnabled = true

/-- `masked = false` holds infinitely often. -/
def OftenUnmasked (r : Nat → State) : Prop := ∀ n, ∃ k, n ≤ k ∧ (r k).masked = false

/-- Weak fairness for the refresh-tick agent (R273): where from some point on refresh stays armed and the mask is
infinitely often clear, the tick steps infinitely often. How many ticks fall where is left open. -/
def WeaklyFair (r : Nat → State) : Prop :=
  StaysArmed r → OftenUnmasked r → ∀ n, ∃ k, n ≤ k ∧ TickStepsAt r k

end Sys2Proof.Machine
end

