-- ==== Sys2Proof/Laws/Fairness.lean ====
section
/-!
SUPPORT. Fair runs: what a step does to the trace, that in a fair run with refresh armed ticks come without bound, and
that a fair run from reset exists.
-/
namespace Sys2Proof.Machine

/-! ### Traces only grow -/

theorem TicksOnly.extends {s t : State} (h : TicksOnly s t) : s.trace <+: t.trace := by
  obtain ⟨es, he, -⟩ := h.events
  exact ⟨es, he.symm⟩

theorem Move.extends {s t : State} (h : Move s t) : s.trace <+: t.trace := by
  cases h with
  | gap h => exact (gap_ok h).extends
  | act k ack m => exact ⟨[⟨.foreground, m⟩], by simp [State.performed, State.record, State.skip]⟩
  | draw k => exact List.prefix_refl _
  | memTaken => exact ⟨_, rfl⟩
  | ioTaken => exact ⟨_, rfl⟩

/-- A command only adds to the trace. -/
theorem exec_extends {i : Instr} {s t : State} (h : exec i s = .next t) : s.trace <+: t.trace := by
  have hr := exec_runs i s
  rw [h] at hr
  obtain ⟨u, hp, rfl⟩ := hr
  exact hp.keeps (P := fun u => s.trace <+: u.trace) (fun _ _ hs m => hs.trans m.extends) (List.prefix_refl _)

/-- A step only adds to the trace. -/
theorem step_extends {s t : State} (h : step s = .next t) : s.trace <+: t.trace := by
  unfold step at h
  split at h
  · cases h
  · split at h
    · cases h
    · rename_i u hb
      have hu := (boundary_ok hb).extends
      split at h
      · cases h; exact hu
      · split at h
        · cases h
        · exact hu.trans (exec_extends (s := State.accept _ u) h)

theorem refreshSteps_mono {s t : State} (h : s.trace <+: t.trace) : s.refreshSteps.length ≤ t.refreshSteps.length := by
  obtain ⟨es, he⟩ := h
  simp [State.refreshSteps, ← he, List.filterMap_append]

/-! ### Fair runs -/

theorem InfiniteRun.refreshSteps_mono {r : Nat → State} (h : InfiniteRun r) {n k : Nat} (hk : n ≤ k) :
    (r n).refreshSteps.length ≤ (r k).refreshSteps.length := by
  induction hk with
  | refl => exact Nat.le_refl _
  | @step m _ ih =>
    obtain ⟨ds, xs, hs⟩ := h m
    exact ih.trans (Machine.refreshSteps_mono (s := (r m).supply ds xs) (step_extends hs))

/-- In a fair run in which refresh stays armed, the refresh-tick agent performs more micro-steps than any number. -/
theorem WeaklyFair.unbounded {r : Nat → State} (hr : InfiniteRun r) (hf : WeaklyFair r) (ha : StaysArmed r)
    (hu : OftenUnmasked r) (m : Nat) : ∃ n, m ≤ (r n).refreshSteps.length := by
  induction m with
  | zero => exact ⟨0, Nat.zero_le _⟩
  | succ m ih =>
    obtain ⟨n, hn⟩ := ih
    obtain ⟨k, hk, ht⟩ := hf ha hu n
    exact ⟨k + 1, Nat.succ_le_of_lt (Nat.lt_of_le_of_lt (hn.trans (hr.refreshSteps_mono hk)) ht)⟩

/-- A machine at rest with refresh armed, with nothing standing on its ports. -/
structure Armed (s : State) : Prop where
  noFault : s.fault = none
  unmasked : s.masked = false
  enabled : s.refreshEnabled = true
  isMutable : s.mutable = true
  rasOut : s.signals.ras.dir = .output
  safe : s.contention = false
  noPending : s.pending = []
  noInputs : s.inputs = []

/-- An armed machine, given one draw that says so, runs one tick and is armed again. -/
theorem Armed.ticks {s : State} (h : Armed s) :
    ∃ t, step (s.supply [] [1]) = .next t ∧ Armed t ∧ s.refreshSteps.length < t.refreshSteps.length := by
  have hin : (s.supply [] [1]).inputs = [1] := by simp [State.supply, h.noInputs]
  have hp : (s.supply [] [1]).pending = [] := by simp [State.supply, h.noPending]
  have hd : (s.supply [] [1]).drawn 0 = 1 := by simp [State.drawn, hin]
  have he : (s.supply [] [1]).tickEnabled = true := by
    simp [State.tickEnabled, State.supply, h.enabled, h.unmasked, h.noFault]
  have hb : boundary (s.supply [] [1]) = .ok (ticked ((s.supply [] [1]).skip 1)) := by
    simp only [boundary, he, if_true, hd, runTicks]
    rw [tick_mutable (s := (s.supply [] [1]).skip 1) h.isMutable h.rasOut h.safe, ok_bind]
  refine ⟨ticked ((s.supply [] [1]).skip 1), ?_, ⟨h.noFault, h.unmasked, h.enabled, h.isMutable, rfl, ?_, hp, ?_⟩, ?_⟩
  · have hf : (s.supply [] [1]).fault = none := h.noFault
    have hq : (ticked ((s.supply [] [1]).skip 1)).pending = [] := hp
    simp only [step, hf, hb, hq]
  · rw [(ticksOnly_ticked (s := (s.supply [] [1]).skip 1) h.rasOut).contention]
    exact h.safe
  · show (s.supply [] [1]).inputs.drop 1 = []
    rw [hin]; rfl
  · simp [State.refreshSteps, ticked, State.supply, State.skip, List.filterMap_append]

/-- BC.INIT refresh and BC.TESTON, delivered after reset, arm the machine. -/
theorem armed_from_reset :
    ∃ t u, step (State.reset.supply [⟨0x83010000, 0, none⟩] []) = .next t ∧
      step (t.supply [⟨0x30000000, 0, none⟩] [0, 0]) = .next u ∧ Armed u :=
  ⟨_, _, rfl, rfl, rfl, rfl, rfl, rfl, rfl, rfl, rfl, rfl⟩

/-- There is a fair run from reset in which refresh stays armed and unmasked. -/
theorem fair_run_exists :
    ∃ r, r 0 = State.reset ∧ InfiniteRun r ∧ StaysArmed r ∧ OftenUnmasked r ∧ WeaklyFair r := by
  obtain ⟨t, u, ht, hu, ha⟩ := armed_from_reset
  have hx : ∀ s : {s // Armed s}, ∃ t : {s // Armed s}, step (s.1.supply [] [1]) = .next t.1 ∧
      s.1.refreshSteps.length < t.1.refreshSteps.length := fun s =>
    let ⟨t, h, ha, hl⟩ := s.2.ticks
    ⟨⟨t, ha⟩, h, hl⟩
  choose f hf using hx
  let g : Nat → {s // Armed s} := fun n => Nat.rec ⟨u, ha⟩ (fun _ s => f s) n
  let r : Nat → State := fun n => match n with
    | 0 => State.reset
    | 1 => t
    | n + 2 => (g n).1
  refine ⟨r, rfl, ?_, ⟨2, ?_⟩, fun n => ⟨n + 2, by omega, (g n).2.unmasked⟩, fun _ _ n => ⟨n + 2, by omega, ?_⟩⟩
  · intro n
    match n with
    | 0 => exact ⟨_, _, ht⟩
    | 1 => exact ⟨_, _, hu⟩
    | n + 2 => exact ⟨[], [1], (hf (g n)).1⟩
  · intro k hk
    obtain ⟨j, rfl⟩ := Nat.exists_eq_add_of_le' hk
    exact (g j).2.enabled
  · exact (hf (g n)).2

end Sys2Proof.Machine
end

