-- ==== Sys2Proof/Laws/Memory.lean ====
section
/-!
SUPPORT. The laws of the target memory: read after write, and the canonical form every operation keeps.
-/
namespace Sys2Proof.Machine

theorem Memory.read_write_same (m : Memory) (a : Nat) (d : Byte) : (m.write a d).read a = some d := by
  induction m with
  | nil => simp [Memory.write, Memory.read]
  | cons c m ih =>
    obtain ⟨b, e⟩ := c
    simp only [Memory.write]
    split
    · simp [Memory.read]
    · split
      · simp [Memory.read]
      · simp [Memory.read, *]

theorem Memory.read_write_other (m : Memory) {a b : Nat} (d : Byte) (h : b ≠ a) :
    (m.write a d).read b = m.read b := by
  induction m with
  | nil => simp [Memory.write, Memory.read, h]
  | cons c m ih =>
    obtain ⟨x, e⟩ := c
    simp only [Memory.write]
    split
    · simp [Memory.read, h]
    · split
      · subst x; simp [Memory.read, h]
      · simp only [Memory.read, ih]

theorem Memory.risingFrom_write (m : Memory) {lo a : Nat} (d : Byte) (h : m.risingFrom lo = true) (hl : lo ≤ a) :
    (m.write a d).risingFrom lo = true := by
  induction m generalizing lo with
  | nil => simp [Memory.write, Memory.risingFrom, hl]
  | cons c m ih =>
    obtain ⟨x, e⟩ := c
    simp only [Memory.risingFrom, Bool.and_eq_true, decide_eq_true_eq] at h
    simp only [Memory.write]
    split
    · simp only [Memory.risingFrom, Bool.and_eq_true, decide_eq_true_eq]
      exact ⟨hl, by omega, h.2⟩
    · split
      · subst x; simp only [Memory.risingFrom, Bool.and_eq_true, decide_eq_true_eq]; exact ⟨hl, h.2⟩
      · simp only [Memory.risingFrom, Bool.and_eq_true, decide_eq_true_eq]
        exact ⟨h.1, ih h.2 (by omega)⟩

theorem Memory.inSpace_write (m : Memory) {a : Nat} (d : Byte) (h : m.inSpace = true) (ha : a < 65536) :
    (m.write a d).inSpace = true := by
  induction m with
  | nil => simp [Memory.write, Memory.inSpace, ha]
  | cons c m ih =>
    obtain ⟨x, e⟩ := c
    simp only [Memory.inSpace, List.all_cons, Bool.and_eq_true, decide_eq_true_eq] at h ih
    simp only [Memory.write, Memory.inSpace]
    split
    · simp [ha, h]
    · split
      · simp [ha, h]
      · simp [h.1, ih h.2]

/-- A write keeps the canonical form. -/
theorem Memory.wf_write (m : Memory) {a : Nat} (d : Byte) (h : m.wf = true) (ha : a < 65536) :
    (m.write a d).wf = true := by
  simp only [Memory.wf, Bool.and_eq_true] at h ⊢
  exact ⟨Memory.risingFrom_write m d h.1 (by omega), Memory.inSpace_write m d h.2 ha⟩

/-- The empty memory is in canonical form. -/
theorem Memory.wf_nil : Memory.wf [] = true := rfl

end Sys2Proof.Machine
end

