-- ==== Sys2Proof/Laws/PerInstr.lean ====
section
/-!
SUPPORT. Per-instruction facts about the encoding: the first word of every command carries its opcode, and the
bit-field facts they rest on.
-/
namespace Sys2Proof

/-- A field of a word given by a number below 2^32. -/
theorem bits_ofNat (hi lo n : Nat) (h : n < 2 ^ 32) : bits hi lo (BitVec.ofNat 32 n) = n / 2 ^ lo % 2 ^ (hi + 1 - lo) := by
  simp only [bits, BitVec.toNat_ofNat, Nat.mod_eq_of_lt h]

/-- The opcode of a word whose other fields are `rest`. -/
theorem opcodeOf_ofNat (op rest : Nat) (ho : op < 256) (hr : rest < 2 ^ 24) :
    opcodeOf (BitVec.ofNat 32 (op * 2 ^ 24 + rest)) = op := by
  rw [opcodeOf, bits_ofNat _ _ _ (by omega)]
  omega

theorem opcodeOf_wordN (op : Nat) (ho : op < 256) : opcodeOf (wordN op) = op := by
  rw [wordN, ← Nat.add_zero (op * 2 ^ 24)]
  exact opcodeOf_ofNat op 0 ho (by decide)

theorem opcodeOf_wordS1 (op : Nat) (sig : BitVec 4) (ho : op < 256) : opcodeOf (wordS1 op sig) = op :=
  opcodeOf_ofNat op _ ho (by have := sig.isLt; omega)

theorem opcodeOf_wordS2 (op : Nat) (sig : BitVec 4) (v : Nat) (ho : op < 256) (hv : v < 2) :
    opcodeOf (wordS2 op sig v) = op := by
  have := sig.isLt
  rw [wordS2, Nat.add_assoc]
  exact opcodeOf_ofNat op _ ho (by omega)

theorem opcodeOf_wordH16 (op : Nat) (a : BitVec 16) (ho : op < 256) : opcodeOf (wordH16 op a) = op :=
  opcodeOf_ofNat op _ ho (by have := a.isLt; omega)

theorem opcodeOf_wordH8 (op : Nat) (v : BitVec 8) (ho : op < 256) : opcodeOf (wordH8 op v) = op :=
  opcodeOf_ofNat op _ ho (by have := v.isLt; omega)

theorem opcodeOf_wordM (op : Nat) (a : BitVec 16) (d : BitVec 8) (ho : op < 256) : opcodeOf (wordM op a d) = op := by
  have := a.isLt; have := d.isLt
  rw [wordM, Nat.add_assoc]
  exact opcodeOf_ofNat op _ ho (by omega)

theorem opcodeOf_wordP (op : Nat) (p d : BitVec 8) (ho : op < 256) : opcodeOf (wordP op p d) = op := by
  have := p.isLt; have := d.isLt
  rw [wordP, Nat.add_assoc]
  exact opcodeOf_ofNat op _ ho (by omega)

theorem opcodeOf_wordI (op : Nat) (c : BitVec 8) (t : BitVec 16) (ho : op < 256) : opcodeOf (wordI op c t) = op := by
  have := c.isLt; have := t.isLt
  rw [wordI, Nat.add_assoc]
  exact opcodeOf_ofNat op _ ho (by omega)

theorem opcodeOf_wordR (op : Nat) (rc : Bool) (ho : op < 256) : opcodeOf (wordR op rc) = op :=
  opcodeOf_ofNat op _ ho (by cases rc <;> decide)

theorem dirBit_lt (d : Dir) : d.bit < 2 := by cases d <;> decide

theorem levelBit_lt (l : Level) : l.bit < 2 := by cases l <;> decide

/-- The opcode column of the map of 30_encoding.md R103. -/
def mapOpcode : Instr → Nat
  | .spDir _ _ => 0x01
  | .spSet _ _ => 0x02
  | .spGet _ => 0x03
  | .spGetdir _ => 0x04
  | .spAdir _ => 0x05
  | .spAout _ => 0x06
  | .spAin => 0x07
  | .spAgetdir => 0x08
  | .spDdir _ => 0x09
  | .spDout _ => 0x0A
  | .spDin => 0x0B
  | .spDgetdir => 0x0C
  | .abSetr => 0x10
  | .abSetw => 0x11
  | .abIsr => 0x12
  | .abIsw => 0x13
  | .abRdaddr => 0x14
  | .abWraddr _ => 0x15
  | .abRdioaddr => 0x16
  | .abWrioaddr _ => 0x17
  | .abWrref _ => 0x18
  | .abState => 0x19
  | .dbSetr => 0x20
  | .dbSetw => 0x21
  | .dbIsr => 0x22
  | .dbIsw => 0x23
  | .dbRd => 0x24
  | .dbWr _ => 0x25
  | .dbState => 0x26
  | .bcTeston => 0x30
  | .bcTestoff => 0x31
  | .bcWaiton => 0x32
  | .bcWaitoff => 0x33
  | .bcIsmut => 0x34
  | .bcIsref => 0x35
  | .bcRow => 0x36
  | .bcRdmem _ => 0x40
  | .bcWrmem _ _ => 0x41
  | .bcRdio _ => 0x42
  | .bcWrio _ _ => 0x43
  | .bcRdmemn _ _ => 0x50
  | .bcWrmemn _ _ _ => 0x51
  | .bcCopy _ _ _ => 0x52
  | .bcFill _ _ _ => 0x53
  | .bcInt _ _ => 0x60
  | .bcRefon => 0x61
  | .bcRefoff => 0x62
  | .isRom _ => 0x70
  | .isUnused _ => 0x71
  | .isMmio _ => 0x72
  | .isKbd _ => 0x73
  | .isVideo _ => 0x74
  | .isSysmem _ => 0x75
  | .isLoexp _ => 0x76
  | .isHiexp _ => 0x77
  | .bcState => 0x80
  | .ver => 0x81
  | .verstr => 0x82
  | .bcInit _ => 0x83
  | .bcShutdown => 0x84

end Sys2Proof

namespace Sys2Proof.Laws.EncodedOpcode
open Sys2Proof

/-- The first word of the command carries its opcode. -/
def Statement (i : Instr) : Prop := opcodeOf (encode i).1 = mapOpcode i

theorem spDir (sig : BitVec 4) (dir : Dir) : Statement (.spDir sig dir) :=
  opcodeOf_wordS2 _ _ _ (by decide) (dirBit_lt _)

theorem spSet (sig : BitVec 4) (lvl : Level) : Statement (.spSet sig lvl) :=
  opcodeOf_wordS2 _ _ _ (by decide) (levelBit_lt _)

theorem spGet (sig : BitVec 4) : Statement (.spGet sig) :=
  opcodeOf_wordS1 _ _ (by decide)

theorem spGetdir (sig : BitVec 4) : Statement (.spGetdir sig) :=
  opcodeOf_wordS1 _ _ (by decide)

theorem spAdir (mask : BitVec 16) : Statement (.spAdir mask) :=
  opcodeOf_wordH16 _ _ (by decide)

theorem spAout (value : BitVec 16) : Statement (.spAout value) :=
  opcodeOf_wordH16 _ _ (by decide)

theorem spAin : Statement (.spAin) :=
  opcodeOf_wordN _ (by decide)

theorem spAgetdir : Statement (.spAgetdir) :=
  opcodeOf_wordN _ (by decide)

theorem spDdir (mask : BitVec 8) : Statement (.spDdir mask) :=
  opcodeOf_wordH8 _ _ (by decide)

theorem spDout (value : BitVec 8) : Statement (.spDout value) :=
  opcodeOf_wordH8 _ _ (by decide)

theorem spDin : Statement (.spDin) :=
  opcodeOf_wordN _ (by decide)

theorem spDgetdir : Statement (.spDgetdir) :=
  opcodeOf_wordN _ (by decide)

theorem abSetr : Statement (.abSetr) :=
  opcodeOf_wordN _ (by decide)

theorem abSetw : Statement (.abSetw) :=
  opcodeOf_wordN _ (by decide)

theorem abIsr : Statement (.abIsr) :=
  opcodeOf_wordN _ (by decide)

theorem abIsw : Statement (.abIsw) :=
  opcodeOf_wordN _ (by decide)

theorem abRdaddr : Statement (.abRdaddr) :=
  opcodeOf_wordN _ (by decide)

theorem abWraddr (addr : Addr) : Statement (.abWraddr addr) :=
  opcodeOf_wordH16 _ _ (by decide)

theorem abRdioaddr : Statement (.abRdioaddr) :=
  opcodeOf_wordN _ (by decide)

theorem abWrioaddr (port : Byte) : Statement (.abWrioaddr port) :=
  opcodeOf_wordH8 _ _ (by decide)

theorem abWrref (row : Byte) : Statement (.abWrref row) :=
  opcodeOf_wordH8 _ _ (by decide)

theorem abState : Statement (.abState) :=
  opcodeOf_wordN _ (by decide)

theorem dbSetr : Statement (.dbSetr) :=
  opcodeOf_wordN _ (by decide)

theorem dbSetw : Statement (.dbSetw) :=
  opcodeOf_wordN _ (by decide)

theorem dbIsr : Statement (.dbIsr) :=
  opcodeOf_wordN _ (by decide)

theorem dbIsw : Statement (.dbIsw) :=
  opcodeOf_wordN _ (by decide)

theorem dbRd : Statement (.dbRd) :=
  opcodeOf_wordN _ (by decide)

theorem dbWr (data : Byte) : Statement (.dbWr data) :=
  opcodeOf_wordH8 _ _ (by decide)

theorem dbState : Statement (.dbState) :=
  opcodeOf_wordN _ (by decide)

theorem bcTeston : Statement (.bcTeston) :=
  opcodeOf_wordN _ (by decide)

theorem bcTestoff : Statement (.bcTestoff) :=
  opcodeOf_wordN _ (by decide)

theorem bcWaiton : Statement (.bcWaiton) :=
  opcodeOf_wordN _ (by decide)

theorem bcWaitoff : Statement (.bcWaitoff) :=
  opcodeOf_wordN _ (by decide)

theorem bcIsmut : Statement (.bcIsmut) :=
  opcodeOf_wordN _ (by decide)

theorem bcIsref : Statement (.bcIsref) :=
  opcodeOf_wordN _ (by decide)

theorem bcRow : Statement (.bcRow) :=
  opcodeOf_wordN _ (by decide)

theorem bcRdmem (addr : Addr) : Statement (.bcRdmem addr) :=
  opcodeOf_wordH16 _ _ (by decide)

theorem bcWrmem (addr : Addr) (data : Byte) : Statement (.bcWrmem addr data) :=
  opcodeOf_wordM _ _ _ (by decide)

theorem bcRdio (port : Byte) : Statement (.bcRdio port) :=
  opcodeOf_wordH8 _ _ (by decide)

theorem bcWrio (port : Byte) (data : Byte) : Statement (.bcWrio port data) :=
  opcodeOf_wordP _ _ _ (by decide)

theorem bcRdmemn (addr : Addr) (len : BitVec 16) : Statement (.bcRdmemn addr len) :=
  opcodeOf_wordM _ _ _ (by decide)

theorem bcWrmemn (addr : Addr) (len : BitVec 16) (offset : BitVec 16) : Statement (.bcWrmemn addr len offset) :=
  opcodeOf_wordM _ _ _ (by decide)

theorem bcCopy (src : Addr) (dst : Addr) (len : BitVec 16) : Statement (.bcCopy src dst len) :=
  opcodeOf_wordM _ _ _ (by decide)

theorem bcFill (addr : Addr) (len : BitVec 16) (value : Byte) : Statement (.bcFill addr len value) :=
  opcodeOf_wordM _ _ _ (by decide)

theorem bcInt (code : Byte) (tmo : BitVec 16) : Statement (.bcInt code tmo) :=
  opcodeOf_wordI _ _ _ (by decide)

theorem bcRefon : Statement (.bcRefon) :=
  opcodeOf_wordN _ (by decide)

theorem bcRefoff : Statement (.bcRefoff) :=
  opcodeOf_wordN _ (by decide)

theorem isRom (addr : Addr) : Statement (.isRom addr) :=
  opcodeOf_wordH16 _ _ (by decide)

theorem isUnused (addr : Addr) : Statement (.isUnused addr) :=
  opcodeOf_wordH16 _ _ (by decide)

theorem isMmio (addr : Addr) : Statement (.isMmio addr) :=
  opcodeOf_wordH16 _ _ (by decide)

theorem isKbd (addr : Addr) : Statement (.isKbd addr) :=
  opcodeOf_wordH16 _ _ (by decide)

theorem isVideo (addr : Addr) : Statement (.isVideo addr) :=
  opcodeOf_wordH16 _ _ (by decide)

theorem isSysmem (addr : Addr) : Statement (.isSysmem addr) :=
  opcodeOf_wordH16 _ _ (by decide)

theorem isLoexp (addr : Addr) : Statement (.isLoexp addr) :=
  opcodeOf_wordH16 _ _ (by decide)

theorem isHiexp (addr : Addr) : Statement (.isHiexp addr) :=
  opcodeOf_wordH16 _ _ (by decide)

theorem bcState : Statement (.bcState) :=
  opcodeOf_wordN _ (by decide)

theorem ver : Statement (.ver) :=
  opcodeOf_wordN _ (by decide)

theorem verstr : Statement (.verstr) :=
  opcodeOf_wordN _ (by decide)

theorem bcInit (rc : Bool) : Statement (.bcInit rc) :=
  opcodeOf_wordR _ _ (by decide)

theorem bcShutdown : Statement (.bcShutdown) :=
  opcodeOf_wordN _ (by decide)

end Sys2Proof.Laws.EncodedOpcode
end

