-- ==== Sys2Proof/Tests/Slice0.lean ====
section
/-!
SUPPORT. Tests: ill-formed terms, words written out from the spec's tables, one step of each command on small states,
with results taken from the spec's examples and vectors, and a witness for the hypotheses of every statement.
-/
namespace Sys2Proof.Tests
open Sys2Proof Sys2Proof.Machine Sys2Proof.Claims

/-! ## Well-formedness: a SIG of 12 or more is refused (30_encoding.md R104 (c)) -/

theorem test_wf_refuses_dir_sig12 : ¬ WellFormed (.spDir 12 .input) := by decide
theorem test_wf_refuses_set_sig15 : ¬ WellFormed (.spSet 15 .low) := by decide
theorem test_wf_refuses_get_sig13 : ¬ WellFormed (.spGet 13) := by decide
theorem test_wf_refuses_getdir_sig14 : ¬ WellFormed (.spGetdir 14) := by decide
theorem test_wf_accepts_sig11 : WellFormed (.spDir 11 .output) ∧ WellFormed (.spGetdir 11) := by decide

/-! ## Decoding: words written out from the tables of 30_encoding.md R92 to R103 -/

/-- SP.DIR and SP.SET: OP, SIG in bits 23..20, V in bit 16; `SP.DIR TEST, out` and `SP.SET TEST, low` are R107's. -/
theorem test_decode_signal_writes :
    [0x01810000, 0x01300000, 0x02800000, 0x02110000].map (decodeTableWord 32) =
      [some (.spDir 8 .output), some (.spDir 3 .input), some (.spSet 8 .low), some (.spSet 1 .high)] := by decide

/-- SP.GET INT_ACK (R123), SP.GETDIR RAS (R124), and the raw bus commands of R126 to R133 with their examples. -/
theorem test_decode_raw_bus :
    [0x03B00000, 0x04000000, 0x050000FF, 0x06003C00, 0x07000000, 0x08000000, 0x090000FF, 0x0A000041, 0x0B000000,
      0x0C000000].map (decodeTableWord 32) =
      [some (.spGet 11), some (.spGetdir 0), some (.spAdir 0x00FF), some (.spAout 0x3C00), some .spAin,
       some .spAgetdir, some (.spDdir 0xFF), some (.spDout 0x41), some .spDin, some .spDgetdir] := by decide

/-- AddressBus, with the examples of R155, R157 and R158. -/
theorem test_decode_address_bus :
    [0x10000000, 0x11000000, 0x12000000, 0x13000000, 0x14000000, 0x15003C00, 0x16000000, 0x1700003F, 0x18000005,
      0x19000000].map (decodeTableWord 32) =
      [some .abSetr, some .abSetw, some .abIsr, some .abIsw, some .abRdaddr, some (.abWraddr 0x3C00),
       some .abRdioaddr, some (.abWrioaddr 0x3F), some (.abWrref 0x05), some .abState] := by decide

/-- DataBus, with the example of R175. -/
theorem test_decode_data_bus :
    [0x20000000, 0x21000000, 0x22000000, 0x23000000, 0x24000000, 0x25000041, 0x26000000].map (decodeTableWord 32) =
      [some .dbSetr, some .dbSetw, some .dbIsr, some .dbIsw, some .dbRd, some (.dbWr 0x41), some .dbState] := by decide

/-- Mastership (R191 to R199). -/
theorem test_decode_mastership :
    [0x30000000, 0x31000000, 0x32000000, 0x33000000, 0x34000000, 0x35000000, 0x36000000].map (decodeTableWord 32) =
      [some .bcTeston, some .bcTestoff, some .bcWaiton, some .bcWaitoff, some .bcIsmut, some .bcIsref,
       some .bcRow] := by decide

/-- Single-byte cycles: format H16, M (D8 above A16), H8, P (D8 in bits 23..16, P8 in bits 7..0); the words of R220 to
R223. -/
theorem test_decode_cycles :
    [0x40003C00, 0x41413C00, 0x420000FF, 0x430800FF].map (decodeTableWord 32) =
      [some (.bcRdmem 0x3C00), some (.bcWrmem 0x3C00 0x41), some (.bcRdio 0xFF), some (.bcWrio 0xFF 0x08)] := by
  decide

/-- Bulk commands, two words: LEN above X16 in the second (R100); the words of R230 to R233. -/
theorem test_decode_bulk :
    [0x50004000 + 2 ^ 32 * 0x00030000, 0x51003C00 + 2 ^ 32 * 0x00020001, 0x52004000 + 2 ^ 32 * 0x00034001,
      0x53203C00 + 2 ^ 32 * 0x04000000].map (decodeTableWord 64) =
      [some (.bcRdmemn 0x4000 3), some (.bcWrmemn 0x3C00 2 1), some (.bcCopy 0x4000 0x4001 3),
       some (.bcFill 0x3C00 1024 0x20)] := by decide

/-- BC.INT (R260), BC.REFON, BC.REFOFF. -/
theorem test_decode_interrupt :
    [0x60C70064, 0x61000000, 0x62000000].map (decodeTableWord 32) =
      [some (.bcInt 0xC7 100), some .bcRefon, some .bcRefoff] := by decide

/-- The predicates of R290 to R297, the diagnostics, BC.INIT with and without RC, BC.SHUTDOWN. -/
theorem test_decode_queries :
    [0x70002FFF, 0x710037DF, 0x720037E0, 0x73003BFF, 0x74003C00, 0x750041FF, 0x76004200, 0x7700FFFF, 0x80000000,
      0x81000000, 0x82000000, 0x83010000, 0x83000000, 0x84000000].map (decodeTableWord 32) =
      [some (.isRom 0x2FFF), some (.isUnused 0x37DF), some (.isMmio 0x37E0), some (.isKbd 0x3BFF),
       some (.isVideo 0x3C00), some (.isSysmem 0x41FF), some (.isLoexp 0x4200), some (.isHiexp 0xFFFF), some .bcState,
       some .ver, some .verstr, some (.bcInit true), some (.bcInit false), some .bcShutdown] := by decide

/-- R104, R105: a reserved opcode, a nonzero zero field in each format, SIG 12. -/
theorem test_decode_rejects :
    [0x00000000, 0x0D000000, 0xFF000000, 0x30000001, 0x03B00001, 0x03C00000, 0x01820000, 0x02C00000, 0x05010000,
      0x09000100, 0x43080100, 0x83020000].map (decodeTableWord 32) = List.replicate 12 none ∧
    [0x50014000 + 2 ^ 32 * 0x00030000, 0x50004000 + 2 ^ 32 * 0x00030001, 0x51013C00 + 2 ^ 32 * 0x00020001,
      0x52014000 + 2 ^ 32 * 0x00034001, 0x53203C00 + 2 ^ 32 * 0x04000001].map (decodeTableWord 64) =
      List.replicate 5 none := by decide

/-- Encoding gives the same words (R107). -/
theorem test_encode_examples :
    encode (.spDir 8 .output) = (0x01810000, 0) ∧ encode (.bcCopy 0x4000 0x4001 16) = (0x52004000, 0x00104001) ∧
    encode (.bcFill 0x3C00 1024 0x20) = (0x53203C00, 0x04000000) ∧ encode (.bcInit true) = (0x83010000, 0) := by decide

/-! ## Small states -/

/-- Concrete parameters: RAM from video memory up, version 1.2.3. -/
def params : Params where
  ioHighByte := .hold
  ioShape := .full
  gateIntWait := true
  releasedAddress := .written
  ramRegions := [(0x3C00, 0xFFFF)]
  versionMajor := 1
  versionMinor := 2
  versionRevision := 3
  timing := default

/-- A machine as after construction, with concrete latches and an environment that answers `inputs`. -/
def cold (inputs : List Nat) : State where
  signals := ⟨⟨.input, .high⟩, ⟨.input, .high⟩, ⟨.input, .high⟩, ⟨.input, .high⟩, ⟨.input, .high⟩, ⟨.input, .high⟩,
    ⟨.input, .high⟩, ⟨.input, .high⟩, ⟨.input, .high⟩, ⟨.input, .high⟩, ⟨.input, .high⟩, ⟨.input, .high⟩⟩
  ab := ⟨0x3C00, 0, false⟩
  db := ⟨0, 0, false⟩
  mutable := false
  refreshEnabled := false
  refreshRow := 0
  refreshConfigured := false
  masked := false
  busGranted := false
  fault := none
  position := 0
  intAckDrive := false
  params := params
  memory := []
  pending := []
  buffer := none
  inputs := inputs
  drawCount := 0
  trace := []

/-- The machine after BC.TESTON (42_mastership.md R192), refresh off. -/
def held (inputs : List Nat) : State :=
  { cold inputs with
    signals := taken (cold []).signals, ab := ⟨0x3C00, 0xFFFF, true⟩, mutable := true, busGranted := true }

/-- The machine after BC.TESTON with refresh configured and armed, at row 5. -/
def armed (inputs : List Nat) : State :=
  { held inputs with refreshEnabled := true, refreshConfigured := true, refreshRow := 5 }

/-- `s` with a command delivered. -/
def given (s : State) (w w2 : CommandWord) : State := { s with pending := [⟨w, w2, none⟩] }

/-- The state a command ends in, where it completes. -/
def after (i : Instr) (s : State) : Option State :=
  match exec i s with
  | .next t => some t
  | _ => none

/-- The kind of the fault a command ends in, if it does. -/
def faultAfter (i : Instr) (s : State) : Option FaultKind :=
  match exec i s with
  | .fault f => some (kindOf f)
  | _ => none

/-- What a command responded, where it completes. -/
def answered (i : Instr) (s : State) : Option (List Response) := (after i s).map State.responses

/-- What a command logged, where it completes. -/
def logsOf (i : Instr) (s : State) : Option (List LogKind) := (after i s).map State.logs

/-- A line of the state a command ends in. -/
def lineAfter (i : Instr) (s : State) (n : Signal) : Option Line := (after i s).map fun t => t.line n

/-! ## One command at a time; the source of each result is the rule named -/

/-- R121: "with sig[WAIT].lvl = high, SP.DIR WAIT, out makes WAIT an output driving high". -/
theorem test_sp_dir_wait_out : lineAfter (.spDir 9 .output) (cold []) .wait = some ⟨.output, .high⟩ := by decide
/-- R121: INT_ACK made an output. -/
theorem test_sp_dir_input_only : faultAfter (.spDir 11 .output) (cold []) = some .inputOnly := by decide
/-- R122: SP.SET on an input; and releasing TEST's level drops `busGranted`. -/
theorem test_sp_set_input_faults : faultAfter (.spSet 8 .low) (cold []) = some .writeInput := by decide
/-- R122, R334: RD low while the data bus is readable is no hazard. -/
theorem test_sp_set_rd_low : lineAfter (.spSet 3 .low) (held []) .rd = some ⟨.output, .low⟩ := by decide
/-- R123: INT_ACK held low by the host CPU. -/
theorem test_sp_get_int_ack : answered (.spGet 11) (cold [0]) = some [.level .low] := by decide
/-- R124: "right after reset, SP.GETDIR RAS responds input". -/
theorem test_sp_getdir_ras : answered (.spGetdir 0) (cold []) = some [.dir .input] := by decide
/-- R126: `SP.ADIR 0x00FF` leaves the flag. -/
theorem test_sp_adir_mixed :
    (after (.spAdir 0x00FF) (held [])).map (fun t => (t.ab.mask, t.ab.writable)) = some (0x00FF, true) := by decide
/-- R126, R334: driving address lines while the bus is not granted. -/
theorem test_sp_adir_contention : faultAfter (.spAdir 1) (cold []) = some .contention := by decide
/-- R127. -/
theorem test_sp_aout : (after (.spAout 0x1234) (cold [])).map (fun t => t.ab.latch) = some 0x1234 := by decide
/-- R128: with the mask 0xFFFF the latch, with a mixed mask the draw on the undriven lines. -/
theorem test_sp_ain : answered .spAin (held [0xFFFF]) = some [.word 0x3C00] := by decide
/-- R129: "after reset SP.AGETDIR responds 0x0000". -/
theorem test_sp_agetdir : answered .spAgetdir (cold []) = some [.word 0] := by decide
/-- R130: `SP.DDIR 0xFF` with the bus granted. -/
theorem test_sp_ddir : (after (.spDdir 0xFF) (held [])).map (fun t => t.db.mask) = some 0xFF := by decide
/-- R131. -/
theorem test_sp_dout : (after (.spDout 0x41) (cold [])).map (fun t => t.db.latch) = some 0x41 := by decide
/-- R132: a draw with the mask 0. -/
theorem test_sp_din : answered .spDin (held [0xA5]) = some [.byte 0xA5] := by decide
/-- R133. -/
theorem test_sp_dgetdir : answered .spDgetdir (held []) = some [.byte 0] := by decide

/-- R150. -/
theorem test_ab_setr :
    (after .abSetr (held [])).map (fun t => (t.ab.mask, t.ab.writable)) = some (0, false) := by decide
/-- R151: AB.SETW while Immutable is contention. -/
theorem test_ab_setw_contention : faultAfter .abSetw (cold []) = some .contention := by decide
/-- R151: redundant, with the optional warning drawn. -/
theorem test_ab_setw_redundant : logsOf .abSetw (held [1]) = some [.wrnRedundant] := by decide
/-- R152, R153. -/
theorem test_ab_isr : answered .abIsr (cold []) = some [.bool true] := by decide
theorem test_ab_isw : answered .abIsw (held []) = some [.bool true] := by decide
/-- R154. -/
theorem test_ab_rdaddr : answered .abRdaddr (cold [0x1F00]) = some [.word 0x1F00] := by decide
/-- R155. -/
theorem test_ab_wraddr : (after (.abWraddr 0x4000) (held [])).map (fun t => t.ab.latch) = some 0x4000 := by decide
/-- R156: A15..A8 are not read. -/
theorem test_ab_rdioaddr : answered .abRdioaddr (cold [0x12FF]) = some [.byte 0xFF] := by decide
/-- R157: the source's scenario of 0x3F on a readable bus. -/
theorem test_ab_wrioaddr_rejected : logsOf (.abWrioaddr 0x3F) (cold []) = some [.errNotWritable] := by decide
/-- R157, IO_HIGH_BYTE = HOLD. -/
theorem test_ab_wrioaddr_hold :
    (after (.abWrioaddr 0x3F) (held [])).map (fun t => t.ab.latch) = some 0x3C3F := by decide
/-- R158: no flag check. -/
theorem test_ab_wrref : (after (.abWrref 0x05) (cold [])).map (fun t => t.ab.latch) = some 0x3C05 := by decide
/-- R159's example. -/
theorem test_ab_state :
    answered .abState (held [0]) = some [.text "ADDR<o-w>(0011110000000000)".toList] := by decide

/-- R170: redundant, without the warning. -/
theorem test_db_setr_redundant : logsOf .dbSetr (held [0]) = some [] := by decide
/-- R171. -/
theorem test_db_setw :
    (after .dbSetw (held [])).map (fun t => (t.db.mask, t.db.writable)) = some (0xFF, true) := by decide
/-- R172, R173. -/
theorem test_db_isr : answered .dbIsr (held []) = some [.bool true] := by decide
theorem test_db_isw : answered .dbIsw (cold []) = some [.bool false] := by decide
/-- R174. -/
theorem test_db_rd : answered .dbRd (held [0x80]) = some [.byte 0x80] := by decide
/-- R175: rejected on a readable bus. -/
theorem test_db_wr_rejected : logsOf (.dbWr 0x41) (held []) = some [.errNotWritable] := by decide
/-- R176's shape. -/
theorem test_db_state : answered .dbState (held [0x41]) = some [.text "DATA<i-r>(01000001)".toList] := by decide

/-- R191's example without a refresh mode; R192's levels. -/
theorem test_bc_teston : (after .bcTeston (cold [0, 0])).map (fun t =>
    (t.mutable, t.busGranted, t.refreshEnabled, t.signals == taken (cold []).signals)) =
    some (true, true, false, true) := by decide
/-- R191: redundant call. -/
theorem test_bc_teston_redundant : logsOf .bcTeston (held []) = some [.wrnRedundant] := by decide
/-- R193's example. -/
theorem test_bc_testoff : (after .bcTestoff (held [0, 0])).map (fun t =>
    (t.mutable, t.busGranted, t.ab.mask, allSignals.all fun n => (t.line n).dir == .input)) =
    some (false, false, 0, true) := by decide
/-- R195's example, and its redundant call. -/
theorem test_bc_waiton : lineAfter .bcWaiton (held []) .wait = some ⟨.output, .low⟩ := by decide
theorem test_bc_waiton_gated : logsOf .bcWaiton (cold []) = some [.errNotMutable] := by decide
/-- R196: not asserted. -/
theorem test_bc_waitoff_redundant : logsOf .bcWaitoff (cold []) = some [.wrnRedundant] := by decide
/-- R197, R198, R199. -/
theorem test_bc_ismut : answered .bcIsmut (held []) = some [.bool true] := by decide
theorem test_bc_isref : answered .bcIsref (held []) = some [.bool false] := by decide
theorem test_bc_row : answered .bcRow (armed []) = some [.row 5] := by decide

/-- R220's example: the target RAM holds 0x41 at 0x3C00. -/
theorem test_bc_rdmem :
    answered (.bcRdmem 0x3C00) { held [0, 0] with memory := [(0x3C00, 0x41)] } = some [.byte 0x41] := by decide
/-- R224: rejected, default 0. -/
theorem test_bc_rdmem_immutable : answered (.bcRdmem 0x3C00) (cold []) = some [.byte 0] := by decide
/-- R221's example. -/
theorem test_bc_wrmem :
    (after (.bcWrmem 0x3C00 0x41) (held [0, 0])).map (fun t => (t.memory, t.db.latch, t.db.writable)) =
      some ([(0x3C00, 0x41)], 0x41, false) := by decide
/-- R373, R228, in the reading `rejected` of log entry 23: after SP.ADIR 0 the cycle's address write is rejected with one
log and the strobes go on; the wrapper's own write follows the flag (R155). -/
theorem test_bc_rdmem_released_address :
    let s : State := { held [0, 0x41] with
      ab := ⟨0x3C00, 0, true⟩, params := { params with releasedAddress := .rejected } }
    (logsOf (.bcRdmem 0x4000) s, answered (.bcRdmem 0x4000) s) = (some [.errNotWritable], some [.byte 0x41]) ∧
    (after (.bcRdmem 0x4000) s).map (fun t => t.ab.latch) = some 0x3C00 ∧
    (after (.abWraddr 0x4000) s).map (fun t => t.ab.latch) = some 0x4000 := by decide
/-- R74, R155, in the reading `written` of log entry 23: the gate reads the flag, not the mask. -/
theorem test_bc_rdmem_flag_gate :
    let s : State := { held [0, 0x41] with ab := ⟨0x3C00, 0, true⟩ }
    logsOf (.bcRdmem 0x4000) s = some [] ∧
    (after (.bcRdmem 0x4000) s).map (fun t => t.ab.latch) = some 0x4000 := by decide
/-- R220, R334: a read with the data bus driven. -/
theorem test_bc_rdmem_driven :
    faultAfter (.bcRdmem 0x4000) { held [] with db := ⟨0, 0xFF, false⟩ } = some .contention := by decide
/-- R222's example. -/
theorem test_bc_rdio : answered (.bcRdio 0xFF) (held [0, 0x80]) = some [.byte 0x80] := by decide
/-- R223's example: port 0xFF takes 0x08; no memory is written. -/
theorem test_bc_wrio : (after (.bcWrio 0xFF 0x08) (held [0, 0])).map (fun t => (t.busCycles, t.memory)) =
    some ([.ioWrite 0xFF 0x08], []) := by decide
/-- R230's example. -/
theorem test_bc_rdmemn :
    answered (.bcRdmemn 0x4000 3)
      { held (List.replicate 8 0) with memory := [(0x4000, 1), (0x4001, 2), (0x4002, 3)] } =
      some [.bytes [1, 2, 3]] := by decide
/-- R231's example. -/
theorem test_bc_wrmemn :
    (after (.bcWrmemn 0x3C00 2 1) { held (List.replicate 8 0) with buffer := some [0x10, 0x48, 0x49] }).map
      (fun t => t.memory) = some [(0x3C00, 0x48), (0x3C01, 0x49)] := by decide
/-- R231: the buffer is one byte short. -/
theorem test_bc_wrmemn_short :
    faultAfter (.bcWrmemn 0x3C00 2 1) { held [] with buffer := some [0x10, 0x48] } = some .buffer := by decide
/-- R232's example: high to low, one warning. -/
theorem test_bc_copy :
    (after (.bcCopy 0x4000 0x4001 3) { held (List.replicate 16 0) with
      memory := [(0x4000, 0x0A), (0x4001, 0x0B), (0x4002, 0x0C), (0x4003, 0x0D)] }).map
      (fun t => (t.memory, t.logs)) =
      some ([(0x4000, 0x0A), (0x4001, 0x0A), (0x4002, 0x0B), (0x4003, 0x0C)], [.wrnOverlap]) := by decide +kernel
/-- R233, R234: the fill wraps modulo 2^16; 0x0000 is not in this machine's RAM. -/
theorem test_bc_fill :
    (after (.bcFill 0xFFFF 2 0x20) (held (List.replicate 8 0))).map (fun t => (t.memory, t.busCycles)) =
      some ([(0xFFFF, 0x20)], [.memWrite 0xFFFF 0x20, .memWrite 0x0000 0x20]) := by decide

/-- R260's example: INT_ACK low at the third poll. -/
theorem test_bc_int_acked :
    (after (.bcInt 0xC7 5) (held [1, 1, 0])).map (fun t => (t.responses, t.db, t.signals.int.dir)) =
      some ([.bool true], ⟨0xC7, 0, false⟩, .input) := by decide
/-- R260: no poll, the timeout logged. -/
theorem test_bc_int_no_poll :
    (after (.bcInt 0xC7 0) (held [])).map (fun t => (t.responses, t.logs)) =
      some ([.bool false], [.errIntTimeout]) := by decide
/-- R266: its example, and no refresh mode. -/
theorem test_bc_refon :
    (after .bcRefon { held [] with refreshConfigured := true }).map (fun t => t.refreshEnabled) = some true := by decide
theorem test_bc_refon_no_timer : logsOf .bcRefon (held []) = some [.errNoTimer] := by decide
/-- R267. -/
theorem test_bc_refoff : (after .bcRefoff (armed [])).map (fun t => t.refreshEnabled) = some false := by decide

/-- The corner cases of R290 to R297. -/
theorem test_is_rom :
    (answered (.isRom 0x2FFF) (cold []), answered (.isRom 0x3000) (cold [])) =
      (some [.bool true], some [.bool false]) := by decide
theorem test_is_unused :
    (answered (.isUnused 0x37DF) (cold []), answered (.isUnused 0x37E0) (cold [])) =
      (some [.bool true], some [.bool false]) := by decide
theorem test_is_mmio :
    (answered (.isMmio 0x37E0) (cold []), answered (.isMmio 0x3800) (cold [])) =
      (some [.bool true], some [.bool false]) := by decide
theorem test_is_kbd :
    (answered (.isKbd 0x3BFF) (cold []), answered (.isKbd 0x3C00) (cold [])) =
      (some [.bool true], some [.bool false]) := by decide
theorem test_is_video :
    (answered (.isVideo 0x3C00) (cold []), answered (.isVideo 0x4000) (cold [])) =
      (some [.bool true], some [.bool false]) := by decide
theorem test_is_sysmem :
    (answered (.isSysmem 0x41FF) (cold []), answered (.isSysmem 0x4200) (cold [])) =
      (some [.bool true], some [.bool false]) := by decide
theorem test_is_loexp :
    (answered (.isLoexp 0x4200) (cold []), answered (.isLoexp 0x8000) (cold [])) =
      (some [.bool true], some [.bool false]) := by decide
theorem test_is_hiexp :
    (answered (.isHiexp 0xFFFF) (cold []), answered (.isHiexp 0x7FFF) (cold [])) =
      (some [.bool true], some [.bool false]) := by decide

/-- R301's example. -/
theorem test_bc_state :
    answered .bcState (held [0, 0, 0, 0, 0, 0, 0, 1, 0, 1, 1, 1, 0, 0xFF]) = some [.text
      ("BUS<M-D-0> RAS:oH CAS:oH MUX:oL RD:oH WR:oH IN:oH OUT:oH INT:iH TEST:oL WAIT:iH SYS_RES:iH INT_ACK:iH " ++
        "ADDR<o-w>(0011110000000000) DATA<i-r>(11111111)").toList] := by decide +kernel
/-- R120 and R9, with the tick of R271: a tick between the sample and the response changes the latch, not the answer. -/
theorem test_sp_ain_tick :
    (after .spAin (armed [0, 1])).map
      (fun t => (t.responses, t.ab.latch, t.foregroundSteps)) =
      some ([.word 0x3C00], 0x3C05, [.sampleAb 0x3C00, .respond (.word 0x3C00)]) := by decide
/-- R301, R9: a tick after the last signal's sample: the string shows the row before it, the address lines after it. -/
theorem test_bc_state_tick :
    answered .bcState (armed (List.replicate 23 0 ++ [1, 0, 0, 0, 0])) = some [.text
      ("BUS<M-E-5> RAS:oH CAS:oH MUX:oL RD:oH WR:oH IN:oH OUT:oH INT:iL TEST:oL WAIT:iL SYS_RES:iL INT_ACK:iL " ++
        "ADDR<o-w>(0011110000000101) DATA<i-r>(00000000)").toList] := by decide +kernel
/-- R302's and R303's examples. -/
theorem test_ver : answered .ver (cold []) = some [.version 1 2 3] := by decide
theorem test_verstr : answered .verstr (cold []) = some [.text "1.2.3".toList] := by decide
/-- R305's example: the state of reset but for `refreshConfigured`. -/
theorem test_bc_init :
    (after (.bcInit true) (cold [])).map (fun t => { t with trace := [] }) =
      some { cold [] with refreshConfigured := true } := by decide
theorem test_bc_init_rejected : logsOf (.bcInit true) (held []) = some [.errContract] := by decide
/-- R306's example. -/
theorem test_bc_shutdown : (after .bcShutdown (held [0, 0])).map (fun t =>
    (t.mutable, t.ab.mask, t.db.mask, allSignals.all fun n => (t.line n).dir == .input)) =
    some (false, 0, 0, true) := by decide

/-- R271's example: one tick at row 5 with the latch 0x3C00, run by an idle step. -/
theorem test_tick : (match step (armed [1]) with
    | .next t => some (t.ab.latch, t.signals.ras, t.refreshRow)
    | _ => none) = some (0x3C05, ⟨.output, .high⟩, 6) := by decide

/-- R271: row 127 wraps to 0. -/
theorem test_tick_wraps : (match tick { armed [] with refreshRow := 127 } with
    | .ok t => some t.refreshRow
    | .error _ => none) = some 0 := by decide

/-- The step accepts and runs a delivered word (R90), and an illegal one ends the run (R104). -/
theorem test_step_runs : (match step (given (cold []) 0x36000000 0) with
    | .next t => some (t.responses, t.pending)
    | _ => none) = some ([.row 0], []) := by decide
theorem test_step_illegal : (match step (given (cold []) 0x0D000000 0) with
    | .fault f => some (kindOf f, (finalState f).fault)
    | _ => none) = some (.illegal, some .illegal) := by decide

/-- The host's view: VER as the first command after reset. -/
theorem test_fetch_from_reset : (match step (State.reset.withFetchWord 32 0x34000000) with
    | .next t => some t.responses
    | _ => none) = some [.bool false] := by decide

/-- Memory keeps its canonical form whatever the order of writes. -/
theorem test_memory_canonical :
    Memory.write (Memory.write (Memory.write [] 5 1) 3 2) 5 7 = [(3, 2), (5, 7)] := by decide

/-- The log and fault codes of R320 and R332, at their ends. -/
theorem test_codes : (logCode .errNotMutable, logCode .wrnOverlap, faultCode .illegal, faultCode .buffer) =
    (1, 17, 1, 5) := by decide

/-! ## Witnesses: the hypotheses of each statement can be met -/

theorem inv_cold : Inv (cold []) := by constructor <;> decide
theorem inv_held : Inv (held []) := by constructor <;> decide
theorem inv_armed : Inv (armed [1]) := by constructor <;> decide
theorem quiet_cold : Quiet (cold []) := by decide
theorem quiet_held : Quiet (held []) := by decide
theorem busHeld_held : BusHeld (held []) := by constructor <;> decide
theorem disciplined_cold : Disciplined (cold []) := ⟨inv_cold, fun h => absurd h (by decide)⟩
theorem disciplined_held : Disciplined (held []) := ⟨inv_held, fun _ => busHeld_held⟩

/-- A command that completes. -/
theorem completes_of_after {i : Instr} {s : State} (h : (after i s).isSome = true) : ∃ t, exec i s = .next t := by
  unfold after at h
  split at h
  · rename_i t ht; exact ⟨t, ht⟩
  · exact absurd h (by decide)

theorem witness_DecodeOfEncode : WellFormed (.spDir 11 .output) ∧ WellFormed (.bcCopy 0xFFFF 0 0xFFFF) := by decide

theorem witness_EncodeOfDecode :
    decode 0x52004000 0x00104001 = .ok (.bcCopy 0x4000 0x4001 16) ∧ commandLength (opcodeOf 0x52004000) = 2 :=
  ⟨rfl, rfl⟩

theorem witness_IllegalWords :
    (cold []).fault = none ∧ boundary (given (cold []) 0x03C00000 0) = .ok (given (cold []) 0x03C00000 0) ∧
    Illegal 0x03C00000 0 ∧ 12 ≤ (12 : BitVec 4).toNat ∧ 12 ≤ (15 : BitVec 4).toNat :=
  ⟨rfl, rfl, Or.inl (by decide), by decide, by decide⟩

theorem witness_LengthFromOpcode : commandLength (opcodeOf 0x40003C00) = 1 := rfl

theorem witness_StepRunsDecodedCommand :
    (given (cold []) 0x36000000 0).fault = none ∧
    boundary (given (cold []) 0x36000000 0) = .ok (given (cold []) 0x36000000 0) ∧
    decode 0x36000000 0 = .ok .bcRow ∧ (given (cold []) 0x36000000 0).refreshEnabled = false :=
  ⟨rfl, rfl, rfl, rfl⟩

theorem witness_IdleStepRunsTicks :
    (Inv (cold []) ∧ (cold []).pending = [] ∧ (cold []).refreshEnabled = false) ∧
    (Inv (armed [1]) ∧ (armed [1]).pending = [] ∧ (armed [1]).refreshEnabled = true ∧
      (armed [1]).signals.ras.dir = .output) :=
  ⟨⟨inv_cold, rfl, rfl⟩, inv_armed, rfl, rfl, rfl⟩

theorem witness_NoStepAfterFault : ({ cold [] with fault := some .buffer } : State).fault = some .buffer := rfl

theorem witness_FaultsRecordTheirKind :
    Inv (given (cold []) 0x11000000 0) ∧ ∃ f, step (given (cold []) 0x11000000 0) = .fault f :=
  ⟨by constructor <;> decide, _, rfl⟩

theorem witness_StepKeepsInv :
    Inv (given (cold []) 0x36000000 0) ∧ ∃ t, step (given (cold []) 0x36000000 0) = .next t :=
  ⟨by constructor <;> decide, _, rfl⟩

theorem witness_CellsHaveTheirWriters : ∃ t, exec .bcRow (cold []) = .next t := completes_of_after (by decide)

theorem witness_ResponseKinds : ∃ t, exec (.bcRdmemn 0 0) (cold []) = .next t := completes_of_after (by decide)

theorem witness_RefreshIsInterlocked : Inv (armed [1]) ∧ ∃ t, step (armed [1]) = .next t := ⟨inv_armed, _, rfl⟩

theorem witness_ControllerKeepsDiscipline :
    (isControllerCommand (.bcRdmem 0) = true ∧ Disciplined (held []) ∧ beyondBuffer (.bcRdmem 0) (held []) = false) ∧
    (isControllerCommand (.bcWrmemn 0 1 0) = true ∧ Disciplined { cold [] with buffer := some [] } ∧
      beyondBuffer (.bcWrmemn 0 1 0) { cold [] with buffer := some [] } = true) ∧
    beyondBuffer (.bcWrmemn 0 1 0) { cold [] with buffer := some [7] } = false :=
  ⟨⟨rfl, disciplined_held, rfl⟩, ⟨rfl, ⟨by constructor <;> decide, fun h => absurd h (by decide)⟩, rfl⟩, rfl⟩

theorem witness_ControllerSequencesAreSafe :
    ∀ d ∈ [(⟨0x30000000, 0, none⟩ : Delivery), ⟨0x40003C00, 0, none⟩], FromController d := by
  intro d hd
  rcases List.mem_cons.1 hd with rfl | hd
  · exact ⟨.bcTeston, rfl, rfl⟩
  · obtain rfl := List.mem_singleton.1 hd
    exact ⟨.bcRdmem 0x3C00, rfl, rfl⟩

theorem witness_RefreshTick :
    ((cold []).contention = false ∧ (cold []).mutable = false) ∧
    ((armed []).contention = false ∧ (armed []).mutable = true ∧ (armed []).signals.ras.dir = .output) ∧
    (let s : State := { armed [] with signals := { (armed []).signals with ras := ⟨.input, .high⟩ } }
     s.contention = false ∧ s.mutable = true ∧ s.signals.ras.dir = .input) := by decide

theorem witness_RowAfterTicks :
    (held []).mutable = true ∧ (held []).signals.ras.dir = .output ∧ (held []).contention = false := by decide

/-- What `Reads` and BC.STATE ask: no tick enabled, and a tick enabled that can run. -/
theorem quiet_off_and_armed :
    (Quiet (cold []) ∧ (cold []).tickEnabled = false) ∧
    (Quiet (armed []) ∧ (armed []).tickEnabled = true ∧ TickReady (armed [])) :=
  ⟨by decide, by decide, by decide, fun _ => rfl⟩

theorem witness_SignalQueries : Quiet (cold []) ∧ (cold []).tickEnabled = false := quiet_off_and_armed.1
theorem witness_RawBusQueries : Quiet (armed []) ∧ (armed []).tickEnabled = true ∧ TickReady (armed []) :=
  quiet_off_and_armed.2
theorem witness_WrapperQueries : Quiet (armed []) ∧ (armed []).tickEnabled = true ∧ TickReady (armed []) :=
  quiet_off_and_armed.2
theorem witness_BusStrings : Quiet (cold []) ∧ (cold []).tickEnabled = false := quiet_off_and_armed.1
theorem witness_ControllerStringQuery : Quiet (armed []) ∧ (armed []).tickEnabled = true ∧ TickReady (armed []) :=
  quiet_off_and_armed.2
theorem witness_ControllerAndVersionQueries : Quiet (cold []) := quiet_cold
theorem witness_RangePredicates : Quiet (cold []) := quiet_cold
theorem witness_RangesPartition : Quiet (cold []) := quiet_cold

/-- SP.DIR: completing, on the input-only lines at both ends, and the hazard of RAS made an output while Immutable. -/
theorem witness_SetDirection :
    (after (.spDir (signalField .wait) .output) (cold [])).isSome = true ∧
    faultAfter (.spDir (signalField .sysRes) .output) (cold []) = some .inputOnly ∧
    (after (.spDir (signalField .sysRes) .input) (cold [])).isSome = true ∧
    faultAfter (.spDir (signalField .ras) .output) (cold []) = some .contention := by decide

/-- SP.SET: completing, on an input, and the hazard of TEST no longer asserted while the bus is driven. -/
theorem witness_SetLevel :
    ((held []).line .rd).dir = .output ∧ (after (.spSet (signalField .rd) .low) (held [])).isSome = true ∧
    ((cold []).line .rd).dir = .input ∧ faultAfter (.spSet (signalField .test) .high) (held []) = some .contention := by
  decide

theorem witness_RawBusWrites :
    Quiet (cold []) ∧ (cold []).busGranted = false ∧ Quiet (held []) ∧ (held []).busGranted = true ∧
    (held []).asserted .rd = false ∧ (held []).asserted .ioIn = false ∧ (1 : BitVec 16) ≠ 0 := by decide

theorem witness_AddressBusDirection :
    (Quiet (cold []) ∧ (cold []).ab.writable = false ∧ (cold []).busGranted = false) ∧
    (Quiet (held []) ∧ (held []).ab.writable = true) ∧
    (let s : State := { held [] with ab := ⟨0, 0, false⟩ }
     Quiet s ∧ s.ab.writable = false ∧ s.busGranted = true) := by decide

theorem witness_DataBusDirection :
    (Quiet (cold []) ∧ (cold []).db.writable = false ∧ (cold []).busGranted = false) ∧
    (Quiet (held []) ∧ (held []).db.writable = false ∧ (held []).busGranted = true ∧ (held []).asserted .rd = false ∧
      (held []).asserted .ioIn = false) ∧
    (let s : State := { held [] with signals := (held []).signals.set .rd ⟨.output, .low⟩ }
     Quiet s ∧ s.db.writable = false ∧ s.asserted .rd = true) ∧
    (let s : State := { held [] with db := ⟨0, 0xFF, true⟩ }
     Quiet s ∧ s.db.writable = true) := by decide

theorem witness_WrapperWrites :
    (Quiet (cold []) ∧ (cold []).ab.writable = false ∧ (cold []).db.writable = false) ∧
    (Quiet (held []) ∧ (held []).ab.writable = true) ∧
    (let s : State := { held [] with db := ⟨0, 0xFF, true⟩ }
     Quiet s ∧ s.db.writable = true) := by decide

theorem witness_TakeBus : Inv (cold []) ∧ (cold []).mutable = false := ⟨inv_cold, rfl⟩

theorem witness_RedundantMastership :
    (Quiet (held []) ∧ (held []).mutable = true) ∧ (Quiet (cold []) ∧ (cold []).mutable = false) := by decide

theorem witness_GiveBusBack :
    (Inv (held []) ∧ (held []).mutable = true ∧ TickReady (held []) ∧ ReadableUndriven (held []) ∧
      (held []).refreshEnabled = false) ∧
    (Inv (armed [1]) ∧ (armed [1]).mutable = true ∧ TickReady (armed [1]) ∧ ReadableUndriven (armed [1])) :=
  ⟨⟨inv_held, rfl, fun _ => rfl, ⟨fun _ => by contradiction, fun _ => rfl⟩, rfl⟩,
    inv_armed, rfl, fun _ => rfl, ⟨fun _ => by contradiction, fun _ => rfl⟩⟩

theorem witness_TakeAndGiveBack :
    Inv (cold []) ∧ (cold []).mutable = false ∧ (cold []).signals.wait.dir = .input ∧
      (cold []).signals.int.dir = .input := ⟨inv_cold, rfl, rfl, rfl⟩

/-- WAIT: gated out; not gated, active and not active. -/
theorem witness_WaitCommands :
    (Quiet (cold []) ∧ (cold []).params.gateIntWait = true ∧ (cold []).mutable = false) ∧
    (Quiet (held []) ∧ ¬ ((held []).params.gateIntWait = true ∧ (held []).mutable = false) ∧
      (held []).signals.wait ≠ ⟨.output, .low⟩) ∧
    (let s : State := { held [] with signals := { (held []).signals with wait := ⟨.output, .low⟩ } }
     Quiet s ∧ ¬ (s.params.gateIntWait = true ∧ s.mutable = false) ∧ s.signals.wait = ⟨.output, .low⟩) := by decide

theorem witness_CyclesAreRejectedWhileImmutable :
    Inv { cold [0] with buffer := some [1, 2] } ∧ (cold [0]).mutable = false ∧ (2 : BitVec 16) ≠ 0 ∧
    (cold [0]).drawnBool 0 = false ∧ (0 : BitVec 16).toNat + (2 : BitVec 16).toNat ≤ [1, 2].length :=
  ⟨by constructor <;> decide, by decide⟩

/-- A known byte, an address wrapper that is readable (R228), and a bus that SP.ADIR made readable, in both
readings of log entry 23. -/
theorem witness_MemoryReadCycle :
    (CycleReady { held [] with memory := [(0x3C00, 0x41)] } [.ras, .rd, .mux, .cas] ∧ (held []).db.mask = 0 ∧
      Holds { held [] with memory := [(0x3C00, 0x41)] } 0x3C00 0x41) ∧
    (CycleReady { held [] with ab := ⟨0x1234, 0x00FF, false⟩ } [.ras, .rd, .mux, .cas] ∧
      ∀ b, ¬ Holds (held []) 0x3C00 b) ∧
    CycleReady { held [] with ab := ⟨0x1234, 0, true⟩ } [.ras, .rd, .mux, .cas] ∧
    CycleReady { held [] with ab := ⟨0x1234, 0, true⟩, params := { params with releasedAddress := .rejected } }
      [.ras, .rd, .mux, .cas] :=
  ⟨⟨⟨by constructor <;> decide, rfl, rfl, rfl, rfl, by decide, fun _ => rfl⟩, rfl, by decide, rfl⟩,
    ⟨⟨by constructor <;> decide, rfl, rfl, rfl, rfl, by decide, fun _ => rfl⟩, fun _ h => nomatch h.2⟩,
    ⟨by constructor <;> decide, rfl, rfl, rfl, rfl, by decide, fun _ => rfl⟩,
    ⟨by constructor <;> decide, rfl, rfl, rfl, rfl, by decide, fun _ => rfl⟩⟩

/-- A readable data bus, and one that is writable and half driven, where DB.SETW is redundant. -/
theorem witness_MemoryWriteCycle :
    (CycleReady (held []) [.ras, .wr, .mux, .cas] ∧ (held []).db.writable = false ∧ (held []).refreshEnabled = false) ∧
    CycleReady { held [] with db := ⟨0, 0x0F, true⟩ } [.ras, .wr, .mux, .cas] :=
  ⟨⟨⟨inv_held, rfl, rfl, rfl, rfl, by decide, fun _ => rfl⟩, rfl, rfl⟩,
    by constructor <;> decide, rfl, rfl, rfl, rfl, by decide, fun _ => rfl⟩

/-- Both shapes of I/O cycle. -/
theorem witness_PortReadCycle :
    CycleReady (held []) (ioLines (held []).params .ioIn) ∧ (held []).db.mask = 0 ∧
    CycleReady { held [] with params := { params with ioShape := .strobeOnly } } [.ioIn] :=
  ⟨⟨inv_held, rfl, rfl, rfl, rfl, by decide, fun _ => rfl⟩, rfl,
    ⟨by constructor <;> decide, rfl, rfl, rfl, rfl, by decide, fun _ => rfl⟩⟩

theorem witness_PortWriteCycle :
    CycleReady (held []) (ioLines (held []).params .ioOut) ∧
    CycleReady { held [] with params := { params with ioShape := .strobeOnly } } [.ioOut] :=
  ⟨⟨inv_held, rfl, rfl, rfl, rfl, by decide, fun _ => rfl⟩,
    ⟨by constructor <;> decide, rfl, rfl, rfl, rfl, by decide, fun _ => rfl⟩⟩

theorem witness_ReleasedStrobeFaults :
    let s : State := { held [] with signals := (held []).signals.set .cas ⟨.input, .high⟩ }
    Inv s ∧ s.mutable = true ∧ s.busGranted = true ∧ s.db.mask = 0 ∧ s.asserted .rd = false ∧
      s.asserted .ioIn = false ∧ Signal.cas ∈ strobesOf s.params (.bcRdmem 0) ∧ (s.line .cas).dir = .input :=
  ⟨by constructor <;> decide, by decide⟩

/-- A driven data bus, and lines ready for BC.RDMEM and for BC.RDIO in both shapes. -/
theorem witness_DrivenReadFaults :
    CycleReady { held [] with db := ⟨0, 1, false⟩ } [.ras, .rd, .mux, .cas] ∧
    CycleReady { held [] with db := ⟨0, 1, false⟩ } (ioLines params .ioIn) ∧
    CycleReady { held [] with db := ⟨0, 1, false⟩, params := { params with ioShape := .strobeOnly } } [.ioIn] ∧
    (1 : BitVec 8) ≠ 0 :=
  ⟨⟨by constructor <;> decide, rfl, rfl, rfl, rfl, by decide, fun _ => rfl⟩,
    ⟨by constructor <;> decide, rfl, rfl, rfl, rfl, by decide, fun _ => rfl⟩,
    ⟨by constructor <;> decide, rfl, rfl, rfl, rfl, by decide, fun _ => rfl⟩, by decide⟩

theorem witness_BulkContractChecks :
    (Quiet (cold []) ∧ (cold []).buffer = none) ∧
    (let s : State := { held [] with buffer := some [1] }
     Quiet s ∧ s.buffer = some [1] ∧ (1 : BitVec 16) ≠ 0 ∧
       [(1 : Byte)].length < (1 : BitVec 16).toNat + (1 : BitVec 16).toNat) := by decide

theorem witness_BulkReadRejections :
    (Inv (cold []) ∧ TickReady (cold []) ∧ (0 : BitVec 16) = 0) ∧
    (Inv (held [1]) ∧ TickReady (held [1]) ∧ (held [1]).drawnBool 0 = true) :=
  ⟨⟨inv_cold, fun _ => by contradiction, rfl⟩, by constructor <;> decide, fun _ => rfl, by decide⟩

theorem witness_BulkRead :
    Disciplined { held [0] with memory := [(0x4000, 1)] } ∧ (held [0]).mutable = true ∧ (1 : BitVec 16) ≠ 0 ∧
    (held [0]).drawnBool 0 = false ∧ Holds { held [0] with memory := [(0x4000, 1)] } (nth 0x4000 0) 1 :=
  ⟨⟨by constructor <;> decide, fun _ => by constructor <;> decide⟩, rfl, by decide, by decide, by decide, rfl⟩

theorem witness_BulkWrite :
    Disciplined { held [] with buffer := some [7] } ∧ (held []).mutable = true ∧ (1 : BitVec 16) ≠ 0 ∧
    (0 : BitVec 16).toNat + (1 : BitVec 16).toNat ≤ [(7 : Byte)].length ∧
    inRegions params.ramRegions (nth 0x4000 0) = true :=
  ⟨⟨by constructor <;> decide, fun _ => by constructor <;> decide⟩, rfl, by decide, by decide, by decide⟩

theorem witness_BulkFill : Disciplined (held []) ∧ (held []).mutable = true ∧ (0xFFFF : BitVec 16) ≠ 0 :=
  ⟨disciplined_held, rfl, by decide⟩

/-- Overlapping and disjoint ranges. -/
theorem witness_CopyCycles :
    Disciplined (held []) ∧ (held []).mutable = true ∧ (3 : BitVec 16) ≠ 0 ∧
    ((0x4001 : Addr) - 0x4000).toNat < (3 : BitVec 16).toNat ∧
    ¬ ((0x4003 : Addr) - 0x4000).toNat < (3 : BitVec 16).toNat :=
  ⟨disciplined_held, rfl, by decide⟩

theorem witness_CopyMovesTheBytes :
    Disciplined { held [] with memory := [(0x4000, 1)] } ∧ (held []).mutable = true ∧ (1 : BitVec 16) ≠ 0 ∧
    (∀ k, k < (1 : BitVec 16).toNat → Holds { held [] with memory := [(0x4000, 1)] } (nth 0x4000 k) 1) ∧
    (∀ k, k < (1 : BitVec 16).toNat → inRegions params.ramRegions (nth 0x5000 k) = true) ∧
    (1 : BitVec 16).toNat ≤ ((0x5000 : Addr) - 0x4000).toNat := by
  refine ⟨⟨by constructor <;> decide, fun _ => by constructor <;> decide⟩, rfl, by decide, ?_, ?_, by decide⟩
  · intro k hk
    obtain rfl : k = 0 := by simpa using hk
    exact ⟨by decide, rfl⟩
  · intro k hk
    obtain rfl : k = 0 := by simpa using hk
    decide

theorem witness_ReadSeesLastWrite :
    Disciplined (held []) ∧ (held []).mutable = true ∧ inRegions params.ramRegions 0x3C00 = true :=
  ⟨disciplined_held, rfl, by decide⟩

/-- Gated out; not gated while Mutable; not gated while Immutable. -/
theorem witness_InterruptHandshake :
    (Inv (cold []) ∧ (cold []).params.gateIntWait = true ∧ (cold []).mutable = false) ∧
    (Inv (held []) ∧ (held []).mutable = true ∧ (held []).asserted .rd = false ∧ (held []).asserted .ioIn = false ∧
      TickReady (held [])) ∧
    (let s : State := { cold [] with params := { params with gateIntWait := false } }
     Inv s ∧ s.params.gateIntWait = false ∧ s.asserted .rd = false ∧ s.asserted .ioIn = false ∧ TickReady s) :=
  ⟨⟨inv_cold, rfl, rfl⟩, ⟨inv_held, rfl, rfl, rfl, fun _ => rfl⟩, by constructor <;> decide, rfl, rfl, rfl,
    fun _ => by contradiction⟩

/-- The acknowledgment at the last poll allowed, and none. -/
theorem witness_InterruptTakesFirstAck :
    (Inv (held [1, 0]) ∧ (held [1, 0]).mutable = true ∧ (held [1, 0]).refreshEnabled = false ∧
      1 < (2 : BitVec 16).toNat ∧ (∀ j, j < 1 → (held [1, 0]).drawnLevel j = .high) ∧
      (held [1, 0]).drawnLevel 1 = .low) ∧
    (∀ j, j < (1 : BitVec 16).toNat → (held [1, 0]).drawnLevel j = .high) := by
  refine ⟨⟨by constructor <;> decide, rfl, rfl, by decide, ?_, by decide⟩, ?_⟩
  · intro j hj
    obtain rfl : j = 0 := by omega
    decide
  · intro j hj
    obtain rfl : j = 0 := by simpa using hj
    decide

theorem witness_RefreshArming :
    (Quiet (cold []) ∧ (cold []).mutable = false ∧ (cold []).refreshEnabled = false) ∧
    (Quiet (held []) ∧ (held []).mutable = true ∧ (held []).refreshConfigured = false) ∧
    (Quiet (armed []) ∧ (armed []).mutable = true ∧ (armed []).refreshConfigured = true ∧
      (armed []).refreshEnabled = true) ∧
    (let s : State := { held [] with refreshConfigured := true }
     Quiet s ∧ s.mutable = true ∧ s.refreshConfigured = true ∧ s.refreshEnabled = false) := by decide

theorem witness_Initialise :
    (Quiet (held []) ∧ (held []).mutable = true) ∧ (Inv (cold []) ∧ (cold []).mutable = false) :=
  ⟨⟨quiet_held, rfl⟩, inv_cold, rfl⟩

theorem witness_Shutdown :
    (Inv (cold []) ∧ (cold []).mutable = false) ∧
    (Inv (held []) ∧ (held []).mutable = true ∧ TickReady (held []) ∧ ReadableUndriven (held [])) :=
  ⟨⟨inv_cold, rfl⟩, inv_held, rfl, fun _ => rfl, fun _ => by contradiction, fun _ => rfl⟩

theorem witness_InitAndShutdownRestoreReset :
    (Inv (cold []) ∧ (∃ t, exec (.bcInit true) (cold []) = .next t) ∧ (cold []).mutable = false) ∧
    (Inv (held [0, 0]) ∧ ∃ t, exec .bcShutdown (held [0, 0]) = .next t) :=
  ⟨⟨inv_cold, completes_of_after (by decide), rfl⟩, by constructor <;> decide, completes_of_after (by decide)⟩

end Sys2Proof.Tests
end

/-! ## What the micro-steps of each command may write

Every command is a run of boundaries and of micro-steps that R20's table allows it. A property that boundaries and
allowed micro-steps keep is kept by the command, so each cell needs one look at the micro-steps and none at the commands. -/

namespace Sys2Proof.Machine
open Sys2Proof.Claims

/-! ### The table of R20, read by micro-step -/

/-- SP.DIR is the one command that makes a line an output without driving it at a level of its own choice. -/
def choosesDir : Instr → Bool
  | .spDir _ _ => true
  | _ => false

/-- BC.INT is the one command with micro-steps that the safety predicate exempts (60_exceptions.md R334 (c)). -/
def acknowledges : Instr → Bool
  | .bcInt _ _ => true
  | _ => false

/-- The micro-steps that R20's table lets a command perform. -/
def mayWrite (i : Instr) : MicroStep → Bool
  | .setDir n d => writesDir i n && (choosesDir i || d == .input)
  | .write n _ => writesLevel i n
  | .driveOut n _ => writesDir i n && writesLevel i n
  | .abMask m => i == .spAdir m
  | .abLatch _ => writesAbLatch i
  | .abSetReadable | .abSetWritable => writesAbFlag i
  | .dbMask m => i == .spDdir m
  | .dbLatch _ => writesDbLatch i
  | .dbSetReadable | .dbSetWritable => writesDbFlag i
  | .grant _ => i == .bcTeston
  | .setMutable _ => i == .bcTeston || i == .bcTestoff || i == .bcShutdown
  | .setRefresh _ => writesRefresh i
  | .setConfigured b => i == .bcInit b
  | .setMasked _ => runsCycles i
  | .nextRow => false
  | .memWrite _ _ => writesMemory i
  | .check | .hold _ _ | .readDir _ _ | .readAbMask _ | .readDbMask _ | .sampleAb _ | .sampleDb _ | .sampleLine _ _
  | .sampleMem _ _ | .sampleIo _ _ | .ioWrite _ _ | .log _ | .redundant _ | .respond _ => true

/-- A micro-step a command may perform anywhere. Arming refresh is left out: it comes last, with no tick after it
(`Done.armed`). -/
def Allowed (i : Instr) (m : MicroStep) : Prop := mayWrite i m = true ∧ m ≠ .setRefresh true

/-- Part of a run of command `i`: like `Path`, with the micro-steps that `i` is allowed. -/
inductive Acts (i : Instr) (s : State) : State → Prop
  | refl : Acts i s s
  | gap {t u : State} (h : Acts i s t) (hg : Machine.gap t = .ok u) : Acts i s u
  | act {t : State} (h : Acts i s t) (k : Nat) (ack : Bool) (m : MicroStep) (ha : ack = true → acknowledges i = true)
      (hm : Allowed i m) (hp : m.prevented t = none) (hc : (t.performed k ack m).contention = false) :
      Acts i s (t.performed k ack m)
  | draw {t : State} (h : Acts i s t) (k : Nat) : Acts i s (t.skip k)
  | memTaken {t : State} (h : Acts i s t) (hw : writesMemory i = true) : Acts i s (targetTakesByte t)
  | ioTaken {t : State} (h : Acts i s t) : Acts i s (deviceTakesByte t)

/-- A whole run of command `i`: allowed micro-steps and then, for BC.TESTON and BC.REFON, perhaps the arming of refresh,
which R266 makes depend on `mutable` and `refreshConfigured`. -/
inductive Done (i : Instr) (s : State) : State → Prop
  | plain {t : State} (h : Acts i s t) : Done i s t
  | armed {t : State} (h : Acts i s t) (hw : writesRefresh i = true) (hm : t.mutable = true)
      (hr : t.refreshConfigured = true) (hc : (t.performed 0 false (.setRefresh true)).contention = false) :
      Done i s (t.performed 0 false (.setRefresh true))

/-! ### Properties kept by a computation -/

/-- Where the computation `r`, started at `s`, succeeds, it keeps `P`; `proj` gives the state it leaves. -/
def Keeps {α : Type} (P : State → Prop) (proj : α → State) (s : State) (r : Except Fault α) : Prop :=
  P s → ∀ a, r = .ok a → P (proj a)

theorem Keeps.ok {α : Type} {P : State → Prop} {proj : α → State} {s : State} {a : α} (h : P s → P (proj a)) :
    Keeps P proj s (.ok a) := by
  intro hs b hb
  cases hb
  exact h hs

theorem Keeps.raise {α : Type} {P : State → Prop} {proj : α → State} {s u : State} {k : FaultKind} :
    Keeps P proj s (raise k u) := fun _ _ h => absurd h (raise_ne_ok _ _ _)

theorem Keeps.bind {α β : Type} {P : State → Prop} {p : α → State} {q : β → State} {s : State} {x : Except Fault α}
    {f : α → Except Fault β} (hx : Keeps P p s x) (hf : ∀ a, Keeps P q (p a) (f a)) : Keeps P q s (x >>= f) := by
  intro hs b hb
  obtain ⟨a, ha, hb⟩ := bind_ok_iff.1 hb
  exact hf a (hx hs a ha) b hb

/-- A step that keeps `P` before the computation. -/
theorem Keeps.after {α : Type} {P : State → Prop} {proj : α → State} {s t : State} {r : Except Fault α}
    (h : P s → P t) (hr : Keeps P proj t r) : Keeps P proj s r := fun hs => hr (h hs)

/-- Every boundary keeps `P`. -/
def GapKeeps (P : State → Prop) : Prop := ∀ s t, P s → gap s = .ok t → P t

/-- The micro-step keeps `P` wherever it can be performed outside the acknowledged path of BC.INT. -/
def StepKeeps (P : State → Prop) (m : MicroStep) : Prop :=
  ∀ (s : State) (k : Nat), P s → m.prevented s = none → (s.performed k false m).contention = false →
    P (s.performed k false m)

/-- Whatever micro-step the foreground agent picks, it keeps `P`. -/
def PickKeeps (P : State → Prop) (p : Pick) : Prop := ∀ s, StepKeeps P (p s).2

section
variable {P : State → Prop} (hg : GapKeeps P)
include hg

theorem Keeps.micro {p : Pick} (hp : PickKeeps P p) (s : State) : Keeps P id s (micro false p s) := by
  intro hs t ht
  obtain ⟨u, hu, hn, hc, rfl⟩ := micro_ok_iff.1 ht
  exact hp u u _ (hg s u hs hu) hn hc

theorem Keeps.seq {ps : List Pick} (hp : ∀ p ∈ ps, PickKeeps P p) (s : State) : Keeps P id s (seq ps s) :=
  fun hs _ ht => seq_keeps hg (fun p hm u hu hn hc => hp p hm u u _ hu hn hc) hs ht

theorem Keeps.readStep {α : Type} {k : Nat} {m : α → MicroStep} {value : State → α} (hm : ∀ x, StepKeeps P (m x))
    (s : State) : Keeps P Prod.snd s (readStep k m value s) := by
  intro hs a ha
  obtain ⟨u, hu, -, ht⟩ := readStep_ok_iff.1 ha
  obtain ⟨hn, hc, ht⟩ := perform_ok_iff.1 ht
  rw [ht] at *
  exact hm _ u k (hg s u hs hu) hn hc

end

theorem Keeps.forEach {P : State → Prop} {body : Nat → State → Except Fault State}
    (hb : ∀ k s, Keeps P id s (body k s)) (ks : List Nat) (s : State) : Keeps P id s (forEach body ks s) :=
  fun hs _ ht => forEach_keeps (fun k u v hu hv => hb k u hu v hv) hs ht

/-! ### The picks and the bodies that commands share -/

section
variable {i : Instr} {s₀ : State}

theorem acts_gapKeeps : GapKeeps (Acts i s₀) := fun _ _ h hg => h.gap hg

theorem Allowed.keeps {m : MicroStep} (hm : Allowed i m) : StepKeeps (Acts i s₀) m :=
  fun _ k h hp hc => h.act k false m (by simp) hm hp hc

/-- Whatever micro-step is picked, command `i` is allowed it. -/
def PickAllowed (i : Instr) (p : Pick) : Prop := ∀ s, Allowed i (p s).2

@[simp] theorem pickAllowed_act {m : MicroStep} : PickAllowed i (act m) ↔ Allowed i m :=
  ⟨fun h => h State.reset, fun h _ => h⟩

@[simp] theorem pickAllowed_hold (h : Hold) : PickAllowed i (hold h) := fun _ => ⟨rfl, by simp [hold]⟩

@[simp] theorem pickAllowed_logStep (k : LogKind) : PickAllowed i (logStep k) := fun _ => ⟨rfl, by simp [logStep, act]⟩

@[simp] theorem pickAllowed_respond (v : Response) : PickAllowed i (respond v) := fun _ => ⟨rfl, by simp [respond, act]⟩

@[simp] theorem pickAllowed_redundantStep : PickAllowed i redundantStep := fun _ => ⟨rfl, by simp [redundantStep]⟩

theorem allowed_ite {c : Prop} [Decidable c] {x y : Nat × MicroStep} (hx : Allowed i x.2) (hy : Allowed i y.2) :
    Allowed i (if c then x else y).2 := by
  split
  · exact hx
  · exact hy

theorem allowed_log (k : LogKind) : Allowed i (.log k) := ⟨rfl, by simp⟩

theorem pickAllowed_release {n : Signal} (h : writesDir i n = true) : PickAllowed i (release n) :=
  pickAllowed_act.2 ⟨by simp [mayWrite, h], by simp⟩

theorem pickAllowed_abSetrBody (h : writesAbFlag i = true) : PickAllowed i abSetrBody :=
  fun s => allowed_ite ⟨h, by simp⟩ (pickAllowed_redundantStep s)

theorem pickAllowed_abSetwBody (h : writesAbFlag i = true) : PickAllowed i abSetwBody :=
  fun s => allowed_ite (pickAllowed_redundantStep s) ⟨h, by simp⟩

theorem pickAllowed_abWraddrBody (h : writesAbLatch i = true) (a : Addr) : PickAllowed i (abWraddrBody a) :=
  fun _ => allowed_ite ⟨h, by simp⟩ (allowed_log _)

theorem pickAllowed_abWrioaddrBody (h : writesAbLatch i = true) (p : Byte) : PickAllowed i (abWrioaddrBody p) :=
  fun _ => allowed_ite ⟨h, by simp⟩ (allowed_log _)

theorem pickAllowed_cycleAddress {p : Pick} (h : PickAllowed i p) : PickAllowed i (cycleAddress p) :=
  fun s => allowed_ite (allowed_log _) (h s)

theorem pickAllowed_dbSetrBody (h : writesDbFlag i = true) : PickAllowed i dbSetrBody :=
  fun s => allowed_ite ⟨h, by simp⟩ (pickAllowed_redundantStep s)

theorem pickAllowed_dbSetwBody (h : writesDbFlag i = true) : PickAllowed i dbSetwBody :=
  fun s => allowed_ite (pickAllowed_redundantStep s) ⟨h, by simp⟩

theorem pickAllowed_dbWrBody (h : writesDbLatch i = true) (d : Byte) : PickAllowed i (dbWrBody d) :=
  fun _ => allowed_ite ⟨h, by simp⟩ (allowed_log _)

theorem pickAllowed_refoffBody (h : writesRefresh i = true) : PickAllowed i refoffBody :=
  fun s => allowed_ite ⟨h, by simp⟩ (pickAllowed_redundantStep s)

/-- The strobe of a shared-control line, in a cycle. -/
theorem pickAllowed_assertLine {n : Signal} (hn : requestLine n = false) (h : writesLevel i n = true) :
    PickAllowed i (assertLine n) := fun _ => by simp [assertLine, act, hn, Allowed, mayWrite, h]

theorem pickAllowed_deassertLine {n : Signal} (hn : requestLine n = false) (h : writesLevel i n = true) :
    PickAllowed i (deassertLine n) := fun _ => by simp [deassertLine, act, hn, Allowed, mayWrite, h]

theorem seq_acts {ps : List Pick} (hp : ∀ p ∈ ps, PickAllowed i p) (s : State) : Keeps (Acts i s₀) id s (seq ps s) :=
  Keeps.seq acts_gapKeeps (fun p hm u => (hp p hm u).keeps) s

theorem seq_singleton_acts {p : Pick} (hp : PickAllowed i p) (s : State) : Keeps (Acts i s₀) id s (seq [p] s) :=
  seq_acts (by simpa using hp) s

theorem readStep_acts {α : Type} {k : Nat} {m : α → MicroStep} {value : State → α} (hm : ∀ x, Allowed i (m x))
    (s : State) : Keeps (Acts i s₀) Prod.snd s (readStep k m value s) :=
  Keeps.readStep acts_gapKeeps (fun x => (hm x).keeps) s

theorem query_acts {α : Type} {k : Nat} {m : α → MicroStep} {value : State → α} {v : α → Response}
    (hm : ∀ x, Allowed i (m x)) (s : State) : Keeps (Acts i s₀) id s (query k m value v s) :=
  (readStep_acts hm s).bind fun t => seq_singleton_acts (pickAllowed_respond _) t.2

theorem allowed_sampleAb (v : Addr) : Allowed i (.sampleAb v) := ⟨rfl, by simp⟩
theorem allowed_sampleDb (v : Byte) : Allowed i (.sampleDb v) := ⟨rfl, by simp⟩
theorem allowed_sampleLine (n : Signal) (l : Level) : Allowed i (.sampleLine n l) := ⟨rfl, by simp⟩

theorem abStateBody_acts (s : State) : Keeps (Acts i s₀) Prod.snd s (abStateBody s) :=
  (readStep_acts allowed_sampleAb s).bind fun _ => Keeps.ok (proj := Prod.snd) id

theorem dbStateBody_acts (s : State) : Keeps (Acts i s₀) Prod.snd s (dbStateBody s) :=
  (readStep_acts allowed_sampleDb s).bind fun _ => Keeps.ok (proj := Prod.snd) id

theorem signalTexts_acts (ns : List Signal) (s : State) : Keeps (Acts i s₀) Prod.snd s (signalTexts ns s) := by
  induction ns generalizing s with
  | nil => exact Keeps.ok (proj := Prod.snd) id
  | cons n ns ih =>
    exact (readStep_acts (allowed_sampleLine n) s).bind fun t => (ih t.2).bind
      fun u => Keeps.ok (proj := Prod.snd) id

theorem pollIntAck_acts (n : Nat) (s : State) : Keeps (Acts i s₀) Prod.snd s (pollIntAck n s) := by
  induction n generalizing s with
  | zero => exact Keeps.ok (proj := Prod.snd) id
  | succ n ih =>
    refine (readStep_acts (allowed_sampleLine .intAck) s).bind fun t => ?_
    show Keeps _ _ t.2 (ite _ _ _)
    split
    · exact Keeps.ok (proj := Prod.snd) id
    · exact (Keeps.micro acts_gapKeeps (fun u => (pickAllowed_hold .tPoll u).keeps) t.2).bind ih

/-- A micro-step of the acknowledged path of BC.INT (60_exceptions.md R334 (c)). -/
theorem micro_ack_acts {p : Pick} (hi : acknowledges i = true) (hp : PickAllowed i p) (s : State) :
    Keeps (Acts i s₀) id s (micro true p s) := by
  intro hs t ht
  obtain ⟨u, hu, hn, hc, rfl⟩ := micro_ok_iff.1 ht
  exact (hs.gap hu).act _ true _ (fun _ => hi) (hp u) hn hc

/-! ### The cycles -/

/-- Every cycle writes the address latch. -/
theorem writesAbLatch_of_runsCycles (h : runsCycles i = true) : writesAbLatch i = true := by
  cases i with
  | abWraddr | abWrioaddr | abWrref | spAout => rfl
  | _ => exact h

/-- Every cycle strobes RAS, MUX and CAS. -/
theorem writesLevel_of_runsCycles (h : runsCycles i = true) :
    writesLevel i .ras = true ∧ writesLevel i .mux = true ∧ writesLevel i .cas = true := by
  cases i with
  | bcRdmem | bcWrmem | bcRdio | bcWrio | bcRdmemn | bcWrmemn | bcCopy | bcFill => exact ⟨rfl, rfl, rfl⟩
  | _ => cases h

theorem writesDbLatch_of_runsWrites (h : runsWrites i = true) : writesDbLatch i = true := by
  cases i with
  | dbWr | spDout | bcInt => rfl
  | _ => exact h

theorem writesDbFlag_of_runsWrites (h : runsWrites i = true) : writesDbFlag i = true := by
  cases i with
  | bcWrmem | bcWrio | bcWrmemn | bcCopy | bcFill => rfl
  | _ => cases h

/-- What R20's table says of a command that runs cycles with the strobe `n`, a shared-control line. -/
structure RunsCycle (i : Instr) (n : Signal) : Prop where
  cycles : runsCycles i = true
  shared : requestLine n = false
  strobe : writesLevel i n = true

/-- What it says of one that runs write cycles. -/
structure RunsWriteCycle (i : Instr) (n : Signal) : Prop extends RunsCycle i n where
  writes : runsWrites i = true

theorem rejectCycle_acts (s : State) : Keeps (Acts i s₀) id s (rejectCycle s) :=
  seq_singleton_acts (pickAllowed_logStep _) s

section
variable {n : Signal} (h : RunsCycle i n)
include h

theorem RunsCycle.setMasked (b : Bool) : PickAllowed i (act (.setMasked b)) :=
  pickAllowed_act.2 ⟨h.cycles, by simp⟩

theorem RunsCycle.address (a : Addr) : PickAllowed i (cycleAddress (abWraddrBody a)) :=
  pickAllowed_cycleAddress (pickAllowed_abWraddrBody (writesAbLatch_of_runsCycles h.cycles) a)

theorem RunsCycle.ioAddress (p : Byte) : PickAllowed i (cycleAddress (abWrioaddrBody p)) :=
  pickAllowed_cycleAddress (pickAllowed_abWrioaddrBody (writesAbLatch_of_runsCycles h.cycles) p)

/-- The lines a cycle strobes: RAS, MUX, CAS and its own. -/
theorem RunsCycle.strobes {k : Signal} (hk : k = n ∨ k = .ras ∨ k = .mux ∨ k = .cas) :
    requestLine k = false ∧ writesLevel i k = true := by
  obtain ⟨hras, hmux, hcas⟩ := writesLevel_of_runsCycles h.cycles
  rcases hk with rfl | rfl | rfl | rfl
  · exact ⟨h.shared, h.strobe⟩
  · exact ⟨rfl, hras⟩
  · exact ⟨rfl, hmux⟩
  · exact ⟨rfl, hcas⟩

theorem RunsCycle.assert {k : Signal} (hk : k = n ∨ k = .ras ∨ k = .mux ∨ k = .cas) :
    PickAllowed i (assertLine k) := by
  obtain ⟨hs, hl⟩ := h.strobes hk
  exact pickAllowed_assertLine hs hl

theorem RunsCycle.deassert {k : Signal} (hk : k = n ∨ k = .ras ∨ k = .mux ∨ k = .cas) :
    PickAllowed i (deassertLine k) := by
  obtain ⟨hs, hl⟩ := h.strobes hk
  exact pickAllowed_deassertLine hs hl

end

section
variable {n : Signal} (h : RunsWriteCycle i n)
include h

theorem RunsWriteCycle.dbSetw : PickAllowed i dbSetwBody :=
  pickAllowed_dbSetwBody (writesDbFlag_of_runsWrites h.writes)

theorem RunsWriteCycle.dbSetr : PickAllowed i dbSetrBody :=
  pickAllowed_dbSetrBody (writesDbFlag_of_runsWrites h.writes)

theorem RunsWriteCycle.dbWr (d : Byte) : PickAllowed i (dbWrBody d) :=
  pickAllowed_dbWrBody (writesDbLatch_of_runsWrites h.writes) d

end

@[simp] theorem allowed_check : Allowed i .check := ⟨rfl, by simp⟩

theorem sampleMemory_acts (s : State) : Keeps (Acts i s₀) Prod.snd s (sampleMemory s) :=
  (readStep_acts (fun _ => ⟨rfl, by simp⟩) s).bind fun _ => Keeps.ok (proj := Prod.snd) id

theorem sampleIoPort_acts (s : State) : Keeps (Acts i s₀) Prod.snd s (sampleIoPort s) :=
  (readStep_acts (fun _ => ⟨rfl, by simp⟩) s).bind fun _ => Keeps.ok (proj := Prod.snd) id

theorem rdmemBody_acts (h : RunsCycle i .rd) (a : Addr) (s : State) :
    Keeps (Acts i s₀) Prod.snd s (rdmemBody a s) := by
  unfold rdmemBody
  split
  · refine (seq_acts ?_ s).bind fun t => (sampleMemory_acts t).bind fun u => (seq_acts ?_ u.2).bind
      fun v => Keeps.ok (proj := Prod.snd) id
    · simp [h.setMasked, h.address, h.assert]
    · simp [h.setMasked, h.deassert]
  · exact (rejectCycle_acts s).bind fun _ => Keeps.ok (proj := Prod.snd) id

theorem wrmemBody_acts (h : RunsWriteCycle i .wr) (hw : writesMemory i = true) (a : Addr) (d : Byte) (s : State) :
    Keeps (Acts i s₀) id s (wrmemBody a d s) := by
  unfold wrmemBody
  split
  · refine (seq_acts ?_ s).bind fun t => (seq_acts ?_ (targetTakesByte t)).after fun ht => ht.memTaken hw
    · simp [h.setMasked, h.address, h.assert, h.dbSetw, h.dbWr]
    · simp [h.setMasked, h.deassert, h.dbSetr]
  · exact rejectCycle_acts s

theorem rdioBody_acts (h : RunsCycle i .ioIn) (p : Byte) (s : State) :
    Keeps (Acts i s₀) Prod.snd s (rdioBody p s) := by
  unfold rdioBody
  split
  · split <;> refine (seq_acts ?_ s).bind fun t => (sampleIoPort_acts t).bind fun u => (seq_acts ?_ u.2).bind
      fun v => Keeps.ok (proj := Prod.snd) id
    all_goals simp [h.setMasked, h.ioAddress, h.assert, h.deassert]
  · exact (rejectCycle_acts s).bind fun _ => Keeps.ok (proj := Prod.snd) id

theorem wrioBody_acts (h : RunsWriteCycle i .ioOut) (p d : Byte) (s : State) :
    Keeps (Acts i s₀) id s (wrioBody p d s) := by
  unfold wrioBody
  split
  · split <;> refine (seq_acts ?_ s).bind fun t => (seq_acts ?_ (deviceTakesByte t)).after fun ht => ht.ioTaken
    all_goals simp [h.setMasked, h.ioAddress, h.assert, h.deassert, h.dbSetw, h.dbWr, h.dbSetr]
  · exact rejectCycle_acts s

theorem readBytes_acts (h : RunsCycle i .rd) (a : Addr) (ks : List Nat) (s : State) :
    Keeps (Acts i s₀) Prod.snd s (readBytes a ks s) := by
  induction ks generalizing s with
  | nil => exact Keeps.ok (proj := Prod.snd) id
  | cons k ks ih =>
    exact (rdmemBody_acts h _ s).bind fun t => (ih t.2).bind fun u => Keeps.ok (proj := Prod.snd) id

theorem copyByte_acts (h : RunsCycle i .rd) (hw : RunsWriteCycle i .wr) (hm : writesMemory i = true)
    (src dst : Addr) (k : Nat) (s : State) : Keeps (Acts i s₀) id s (copyByte src dst k s) :=
  (rdmemBody_acts h _ s).bind fun t => wrmemBody_acts hw hm _ t.1 t.2

/-! ### Giving the bus back -/

/-- What BC.TESTOFF and BC.SHUTDOWN write, in R20's table. -/
structure GivesBack (i : Instr) : Prop where
  refresh : writesRefresh i = true
  mutable : ∀ b, mayWrite i (.setMutable b) = true
  shared : ∀ n ∈ sharedSignals, writesDir i n = true
  test : writesDir i .test = true
  abFlag : writesAbFlag i = true
  dbFlag : writesDbFlag i = true

/-- BC.TESTOFF's lines, given back once it is Immutable (R193). -/
def giveBackLines : List Pick :=
  [act (.setMutable false), release .rd, release .wr, release .ioIn, release .ioOut, release .ras, release .cas,
    release .mux]

/-- The picks of BC.TESTOFF after its check and the disarming of refresh. -/
def giveBackTail : List Pick := giveBackLines ++ [dbSetrBody, abSetrBody, deassertLine .test, hold .tSettle]

theorem pickAllowed_giveBackTail (h : GivesBack i) : ∀ p ∈ giveBackTail, PickAllowed i p := by
  have hr : ∀ n ∈ sharedSignals, PickAllowed i (release n) := fun n hn => pickAllowed_release (h.shared n hn)
  have ht : PickAllowed i (deassertLine .test) := pickAllowed_release h.test
  have hm : Allowed i (.setMutable false) := ⟨h.mutable false, by simp⟩
  simp only [sharedSignals, List.forall_mem_cons] at hr
  simp [giveBackTail, giveBackLines, hr, ht, hm, pickAllowed_dbSetrBody h.dbFlag, pickAllowed_abSetrBody h.abFlag]

theorem testoffBody_of_mutable {s : State} (hm : s.mutable = true) :
    testoffBody s = seq (act .check :: refoffBody :: giveBackTail) s := by
  unfold testoffBody
  rw [if_pos hm]
  rfl

theorem testoffBody_of_immutable {s : State} (hm : s.mutable = false) :
    testoffBody s = seq [logStep .wrnRedundant] s := by simp [testoffBody, hm]

theorem testoffBody_acts (h : GivesBack i) (s : State) : Keeps (Acts i s₀) id s (testoffBody s) := by
  cases hm : s.mutable with
  | true =>
    rw [testoffBody_of_mutable hm]
    exact seq_acts (List.forall_mem_cons.2 ⟨pickAllowed_act.2 allowed_check, List.forall_mem_cons.2
      ⟨pickAllowed_refoffBody h.refresh, pickAllowed_giveBackTail h⟩⟩) s
  | false =>
    rw [testoffBody_of_immutable hm]
    exact seq_singleton_acts (pickAllowed_logStep _) s

theorem pickAllowed_releaseAll (hd : ∀ n, writesDir i n = true) (ha : writesAbFlag i = true)
    (hb : writesDbFlag i = true) : ∀ p ∈ releaseAll, PickAllowed i p := by
  intro p hp
  rcases List.mem_append.1 hp with hp | hp
  · obtain ⟨n, -, rfl⟩ := List.mem_map.1 hp
    exact pickAllowed_release (hd n)
  · have h1 : Allowed i .abSetReadable := ⟨ha, by simp⟩
    have h2 : Allowed i .dbSetReadable := ⟨hb, by simp⟩
    simp only [List.mem_cons, List.not_mem_nil, or_false] at hp
    rcases hp with rfl | rfl
    · exact pickAllowed_act.2 h1
    · exact pickAllowed_act.2 h2

end

/-! ### Every command is a run of its own micro-steps -/

theorem writesDir_spDir (sig : BitVec 4) (d : Dir) (n : Signal) :
    writesDir (.spDir sig d) n = (sig == signalField n) := rfl

theorem writesLevel_spSet (sig : BitVec 4) (l : Level) (n : Signal) :
    writesLevel (.spSet sig l) n = (sig == signalField n) := rfl

theorem writesDir_bcTeston (n : Signal) : writesDir .bcTeston n = (n == .test || sharedSignals.contains n) := rfl

theorem writesLevel_bcTeston (n : Signal) : writesLevel .bcTeston n = (n == .test || sharedSignals.contains n) := rfl

theorem eq_signalField_of_signalOfField {sig : BitVec 4} {n : Signal} (h : signalOfField sig = some n) :
    sig = signalField n := by
  revert sig n
  have : ∀ sig : BitVec 4, ∀ n ∈ signalOfField sig, sig = signalField n := by decide
  exact fun {sig n} h => this sig n h

section
variable {i : Instr} {s₀ : State}

theorem onSignal_acts {sig : BitVec 4} {body : Signal → State → Except Fault State}
    (hb : ∀ n s, sig = signalField n → Keeps (Acts i s₀) id s (body n s)) (s : State) :
    Keeps (Acts i s₀) id s (onSignal sig body s) := by
  unfold onSignal
  split
  · next n hn => exact hb n s (eq_signalField_of_signalOfField hn)
  · exact Keeps.raise

/-- BC.REFON's body arms refresh only where R266 lets it, and is otherwise a log or a redundant call. -/
theorem refonBody_cases (i : Instr) (s : State) : Allowed i (refonBody s).2 ∨
    s.mutable = true ∧ s.refreshConfigured = true ∧ refonBody s = (0, .setRefresh true) := by
  by_cases hm : s.mutable = false
  · exact .inl (by simpa [refonBody, hm] using allowed_log _)
  by_cases hr : s.refreshConfigured = false
  · exact .inl (by simpa [refonBody, hm, hr] using allowed_log _)
  by_cases he : s.refreshEnabled = true
  · exact .inl (by simpa [refonBody, hm, hr, he] using pickAllowed_redundantStep s)
  · exact .inr ⟨by simpa using hm, by simpa using hr, by simp [refonBody, hm, hr, he]⟩

theorem refonBody_done (hw : writesRefresh i = true) {s t : State} (hs : Acts i s₀ s)
    (ht : micro false refonBody s = .ok t) : Done i s₀ t := by
  obtain ⟨u, hg, hp, hc, rfl⟩ := micro_ok_iff.1 ht
  rcases refonBody_cases i u with h | ⟨hm, hr, he⟩
  · exact .plain ((hs.gap hg).act _ false _ (by simp) h hp hc)
  · rw [he] at hc ⊢
    exact .armed (hs.gap hg) hw hm hr hc

/-- A command completes with `Done`, back at rest. -/
def Completes (i : Instr) (s : State) (o : Host.Outcome State Fault Refusal) : Prop :=
  ∀ t, o = .next t → ∃ u, Done i s.idle u ∧ t = u.idle

theorem command_completes {s : State} {body : State → Except Fault State}
    (h : Keeps (Acts i s.idle) id s.idle (body s.idle)) : Completes i s (command body s) := by
  intro t ht
  obtain ⟨u, hu, rfl⟩ := command_next_iff.1 ht
  exact ⟨u, .plain (h .refl u hu), rfl⟩

end

theorem execBcTeston_completes (s : State) : Completes .bcTeston s (execBcTeston s) := by
  intro t ht
  obtain ⟨u, hu, rfl⟩ := command_next_iff.1 ht
  refine ⟨u, ?_, rfl⟩
  have hd : ∀ n ∈ sharedSignals, PickAllowed .bcTeston (driveSafe n) := by
    intro n hn
    refine pickAllowed_act.2 ⟨?_, by simp⟩
    simp only [mayWrite, writesDir_bcTeston, writesLevel_bcTeston]
    simp [hn]
  have ht : PickAllowed .bcTeston (assertLine .test) := pickAllowed_act.2 ⟨rfl, by simp [requestLine]⟩
  have hm : ∀ b, Allowed .bcTeston (.setMutable b) := fun b => ⟨rfl, by simp⟩
  have hgr : PickAllowed .bcTeston fun s => (1, .grant (s.drawnBool 0)) := fun s => ⟨rfl, by simp⟩
  simp only [sharedSignals, List.forall_mem_cons] at hd
  split at hu
  · exact .plain (seq_singleton_acts (pickAllowed_logStep _) _ .refl u hu)
  · rw [seq_append, bind_ok_iff] at hu
    obtain ⟨v, hv, hu⟩ := hu
    have hv : Acts .bcTeston s.idle v := seq_acts (by
      simp [hd, ht, hm, hgr, pickAllowed_abSetwBody (i := .bcTeston) rfl,
        pickAllowed_dbSetrBody (i := .bcTeston) rfl]) s.idle .refl v hv
    split at hu
    · exact refonBody_done rfl hv (by simpa using hu)
    · cases hu
      exact .plain hv

theorem execBcRefon_completes (s : State) : Completes .bcRefon s (execBcRefon s) := by
  intro t ht
  obtain ⟨u, hu, rfl⟩ := command_next_iff.1 ht
  exact ⟨u, refonBody_done rfl .refl (by simpa using hu), rfl⟩

theorem execBcInt_completes (code : Byte) (tmo : BitVec 16) (s : State) :
    Completes (.bcInt code tmo) s (execBcInt code tmo s) := by
  have ha : PickAllowed (.bcInt code tmo) (assertLine .int) := pickAllowed_act.2 ⟨rfl, by simp [requestLine]⟩
  have hd : PickAllowed (.bcInt code tmo) (deassertLine .int) := pickAllowed_act.2 ⟨rfl, by simp [requestLine]⟩
  unfold execBcInt
  refine command_completes ?_
  split
  · exact seq_acts (by simp) _
  · refine (seq_singleton_acts ha _).bind fun t => (pollIntAck_acts _ t).bind fun u => ?_
    show Keeps _ id u.2 (ite _ _ _)
    split
    · exact (micro_ack_acts rfl (pickAllowed_dbSetwBody rfl) _).bind fun v =>
        (micro_ack_acts rfl (pickAllowed_dbWrBody rfl _) v).bind fun v =>
        (micro_ack_acts rfl (pickAllowed_hold _) v).bind fun v => (micro_ack_acts rfl hd v).bind fun v =>
        seq_acts (by simp [pickAllowed_dbSetrBody (i := .bcInt code tmo) rfl]) v
    · exact seq_acts (by simp [hd]) _

theorem execBcState_completes (s : State) : Completes .bcState s (execBcState s) := by
  unfold execBcState
  exact command_completes ((signalTexts_acts _ _).bind fun t => (abStateBody_acts t.2).bind
    fun u => (dbStateBody_acts u.2).bind fun v => seq_singleton_acts (pickAllowed_respond _) v.2)

theorem execBcInit_completes (rc : Bool) (s : State) : Completes (.bcInit rc) s (execBcInit rc s) := by
  unfold execBcInit
  refine command_completes ?_
  split
  · exact seq_singleton_acts (pickAllowed_logStep _) _
  · refine seq_acts (fun p hp => ?_) _
    rcases List.mem_append.1 hp with hp | hp
    · exact pickAllowed_releaseAll (fun _ => rfl) rfl rfl p hp
    · rw [List.mem_singleton.1 hp]
      exact pickAllowed_act.2 ⟨by simp [mayWrite], by simp⟩

theorem givesBack_bcTestoff : GivesBack .bcTestoff :=
  ⟨rfl, fun _ => rfl, by decide, rfl, rfl, rfl⟩

theorem givesBack_bcShutdown : GivesBack .bcShutdown :=
  ⟨rfl, fun _ => rfl, by decide, rfl, rfl, rfl⟩

theorem execBcShutdown_completes (s : State) : Completes .bcShutdown s (execBcShutdown s) := by
  unfold execBcShutdown
  refine command_completes (Keeps.bind (p := id) ?_ fun t =>
    seq_acts (pickAllowed_releaseAll (fun _ => rfl) rfl rfl) t)
  split
  · exact testoffBody_acts givesBack_bcShutdown _
  · exact Keeps.ok id

theorem execBcWaiton_completes (s : State) : Completes .bcWaiton s (execBcWaiton s) :=
  command_completes (seq_singleton_acts (fun u => allowed_ite (allowed_log _) (allowed_ite (allowed_log _)
    ⟨rfl, by simp [assertLine, act, requestLine]⟩)) _)

theorem execBcWaitoff_completes (s : State) : Completes .bcWaitoff s (execBcWaitoff s) :=
  command_completes (seq_singleton_acts (fun u => allowed_ite
    ⟨rfl, by simp [deassertLine, act, requestLine]⟩ (allowed_log _)) _)

theorem execBcRdmemn_completes (a : Addr) (len : BitVec 16) (s : State) :
    Completes (.bcRdmemn a len) s (execBcRdmemn a len s) := by
  unfold execBcRdmemn
  refine command_completes ?_
  split
  · exact seq_acts (by simp) _
  · split
    · refine seq_acts ?_ _
      simp only [List.forall_mem_cons, pickAllowed_respond, List.not_mem_nil, false_implies, implies_true, and_true]
      exact fun _ => allowed_log _
    · refine Keeps.after (fun h => h.draw 1) ?_
      exact (readBytes_acts ⟨rfl, rfl, rfl⟩ _ _ _).bind
        fun t => seq_singleton_acts (pickAllowed_respond _) t.2

theorem execBcWrmemn_completes (a : Addr) (len off : BitVec 16) (s : State) :
    Completes (.bcWrmemn a len off) s (execBcWrmemn a len off s) := by
  unfold execBcWrmemn
  refine command_completes ?_
  split
  · exact seq_singleton_acts (pickAllowed_logStep _) _
  · split
    · exact seq_singleton_acts (pickAllowed_logStep _) _
    · split
      · exact Keeps.raise
      · exact Keeps.forEach (fun _ => wrmemBody_acts ⟨⟨rfl, rfl, rfl⟩, rfl⟩ rfl _ _) _ _

theorem execBcCopy_completes (src dst : Addr) (len : BitVec 16) (s : State) :
    Completes (.bcCopy src dst len) s (execBcCopy src dst len s) := by
  unfold execBcCopy
  refine command_completes ?_
  split
  · exact seq_singleton_acts (pickAllowed_logStep _) _
  · refine (seq_acts (fun p hp => ?_) _).bind fun t => Keeps.forEach (copyByte_acts
      ⟨rfl, rfl, rfl⟩ ⟨⟨rfl, rfl, rfl⟩, rfl⟩ rfl _ _) _ t
    split at hp
    · rw [List.mem_singleton.1 hp]
      exact pickAllowed_logStep _
    · cases hp

theorem execBcFill_completes (a : Addr) (len : BitVec 16) (v : Byte) (s : State) :
    Completes (.bcFill a len v) s (execBcFill a len v s) := by
  unfold execBcFill
  refine command_completes ?_
  split
  · exact seq_singleton_acts (pickAllowed_logStep _) _
  · exact Keeps.forEach (fun _ => wrmemBody_acts ⟨⟨rfl, rfl, rfl⟩, rfl⟩ rfl _ _) _ _

/-- Every command that completes is a run of the micro-steps that R20's table allows it. -/
theorem exec_completes (i : Instr) (s : State) : Completes i s (exec i s) := by
  cases i
  case spDir sig d =>
    refine command_completes (onSignal_acts (fun n u hn => seq_singleton_acts ?_ u) _)
    exact pickAllowed_act.2 ⟨by simp [mayWrite, writesDir_spDir, choosesDir, hn], by simp⟩
  case spSet sig l =>
    refine command_completes (onSignal_acts (fun n u hn => seq_singleton_acts ?_ u) _)
    exact pickAllowed_act.2 ⟨by simp [mayWrite, writesLevel_spSet, hn], by simp⟩
  case spGet | spGetdir =>
    exact command_completes (onSignal_acts (fun n u _ => query_acts (fun _ => ⟨rfl, by simp⟩) u) _)
  case spAin | spAgetdir | spDin | spDgetdir | abRdaddr | abRdioaddr | dbRd =>
    exact command_completes (query_acts (fun _ => ⟨rfl, by simp⟩) _)
  case spAdir | spDdir =>
    exact command_completes (seq_singleton_acts (pickAllowed_act.2 ⟨by simp [mayWrite], by simp⟩) _)
  case spAout | spDout => exact command_completes (seq_singleton_acts (pickAllowed_act.2 ⟨rfl, by simp⟩) _)
  case abSetr => exact command_completes (seq_singleton_acts (pickAllowed_abSetrBody rfl) _)
  case abSetw => exact command_completes (seq_singleton_acts (pickAllowed_abSetwBody rfl) _)
  case abWraddr => exact command_completes (seq_singleton_acts (pickAllowed_abWraddrBody rfl _) _)
  case abWrioaddr => exact command_completes (seq_singleton_acts (pickAllowed_abWrioaddrBody rfl _) _)
  case abWrref => exact command_completes (seq_singleton_acts (fun _ => ⟨rfl, by simp⟩) _)
  case abState =>
    unfold exec execAbState
    exact command_completes ((abStateBody_acts _).bind fun t => seq_singleton_acts (pickAllowed_respond _) t.2)
  case dbSetr => exact command_completes (seq_singleton_acts (pickAllowed_dbSetrBody rfl) _)
  case dbSetw => exact command_completes (seq_singleton_acts (pickAllowed_dbSetwBody rfl) _)
  case dbWr => exact command_completes (seq_singleton_acts (pickAllowed_dbWrBody rfl _) _)
  case dbState =>
    unfold exec execDbState
    exact command_completes ((dbStateBody_acts _).bind fun t => seq_singleton_acts (pickAllowed_respond _) t.2)
  case bcTeston => exact execBcTeston_completes s
  case bcTestoff => exact command_completes (testoffBody_acts givesBack_bcTestoff _)
  case bcWaiton => exact execBcWaiton_completes s
  case bcWaitoff => exact execBcWaitoff_completes s
  case bcRdmem =>
    unfold exec execBcRdmem
    exact command_completes ((rdmemBody_acts ⟨rfl, rfl, rfl⟩ _ _).bind
      fun t => seq_singleton_acts (pickAllowed_respond _) t.2)
  case bcWrmem =>
    exact command_completes (wrmemBody_acts ⟨⟨rfl, rfl, rfl⟩, rfl⟩ rfl _ _ _)
  case bcRdio =>
    unfold exec execBcRdio
    exact command_completes ((rdioBody_acts ⟨rfl, rfl, rfl⟩ _ _).bind
      fun t => seq_singleton_acts (pickAllowed_respond _) t.2)
  case bcWrio =>
    exact command_completes (wrioBody_acts ⟨⟨rfl, rfl, rfl⟩, rfl⟩ _ _ _)
  case bcRdmemn => exact execBcRdmemn_completes _ _ s
  case bcWrmemn => exact execBcWrmemn_completes _ _ _ s
  case bcCopy => exact execBcCopy_completes _ _ _ s
  case bcFill => exact execBcFill_completes _ _ _ s
  case bcInt => exact execBcInt_completes _ _ s
  case bcRefon => exact execBcRefon_completes s
  case bcRefoff => exact command_completes (seq_singleton_acts (pickAllowed_refoffBody rfl) _)
  case bcState => exact execBcState_completes s
  case bcInit => exact execBcInit_completes _ s
  case bcShutdown => exact execBcShutdown_completes s
  all_goals exact command_completes (seq_singleton_acts (fun _ => ⟨rfl, by simp [answer, respond, act]⟩) _)

/-! ### What every command keeps -/

/-- A state with the foreground agent at rest, no draws and no trace: all that the cells, the parameters, the target memory
and the command port say. -/
def State.bare (s : State) : State :=
  { s with position := 0, intAckDrive := false, inputs := [], drawCount := 0, trace := [] }

theorem State.bare_performed (k : Nat) (ack : Bool) (m : MicroStep) (s : State) :
    (s.performed k ack m).bare = (m.apply s).bare := by
  simp only [State.bare, State.performed_signals, State.performed_ab, State.performed_db, State.performed_mutable,
    State.performed_refreshEnabled, State.performed_refreshRow, State.performed_refreshConfigured,
    State.performed_masked, State.performed_busGranted, State.performed_fault, State.performed_params,
    State.performed_memory, State.performed_pending, State.performed_buffer]

theorem State.bare_refreshEnabled (s : State) : s.bare.refreshEnabled = s.refreshEnabled := rfl
theorem State.bare_idle (s : State) : s.idle.bare = s.bare := rfl
theorem State.bare_skip (k : Nat) (s : State) : (s.skip k).bare = s.bare := rfl
theorem State.bare_deviceTakesByte (s : State) : (deviceTakesByte s).bare = s.bare := rfl

theorem State.bare_targetTakesByte (s : State) :
    (targetTakesByte s).bare = ((MicroStep.memWrite (s.abLines 0) (s.dbLines 1)).apply s).bare := rfl

/-- What the trace, the draws and the foreground's position do not decide. -/
def OfCells (P : State → Prop) : Prop := ∀ s, P s.bare ↔ P s

theorem OfCells.of_bare_eq {P : State → Prop} (hP : OfCells P) {s t : State} (h : t.bare = s.bare) (hs : P s) : P t := by
  rw [← hP t, h]
  exact (hP s).2 hs

/-- A property of the cells that boundaries and the allowed micro-steps keep is kept by part of a command. -/
theorem Acts.keeps {i : Instr} {P : State → Prop} (hP : OfCells P) (hg : GapKeeps P)
    (hstep : ∀ m s, Allowed i m → m.prevented s = none → P s → P (m.apply s)) {s t : State} (h : Acts i s t)
    (hs : P s) : P t := by
  induction h with
  | refl => exact hs
  | gap _ hgap ih => exact hg _ _ ih hgap
  | act _ k ack m _ hm hp _ ih => exact hP.of_bare_eq (State.bare_performed k ack m _) (hstep m _ hm hp ih)
  | draw _ k ih => exact hP.of_bare_eq (State.bare_skip k _) ih
  | memTaken _ hw ih => exact hP.of_bare_eq (State.bare_targetTakesByte _) (hstep _ _ ⟨hw, by simp⟩ rfl ih)
  | ioTaken _ ih => exact hP.of_bare_eq (State.bare_deviceTakesByte _) ih

/-- A property of the cells that boundaries and the micro-steps of the command's writers keep is kept by the command. -/
theorem exec_keeps {i : Instr} {P : State → Prop} (hP : OfCells P) (hg : GapKeeps P)
    (hstep : ∀ m s, mayWrite i m = true → m.prevented s = none → P s → P (m.apply s)) {s t : State}
    (h : exec i s = .next t) (hs : P s) : P t := by
  obtain ⟨u, hu, rfl⟩ := exec_completes i s t h
  have acts {v : State} (hv : Acts i s.idle v) : P v :=
    hv.keeps hP hg (fun m s hm => hstep m s hm.1) (hP.of_bare_eq (State.bare_idle s) hs)
  refine hP.of_bare_eq (State.bare_idle u) ?_
  cases hu with
  | plain hv => exact acts hv
  | armed hv hw => exact hP.of_bare_eq (State.bare_performed 0 false _ _) (hstep _ _ hw rfl (acts hv))

/-- What boundaries leave and no micro-step of the command writes, the command leaves. -/
theorem exec_leaves {β : Type} {i : Instr} (f : State → β) (hf : ∀ s, f s.bare = f s)
    (hg : ∀ s t, TicksOnly s t → f t = f s) (hstep : ∀ m s, mayWrite i m = true → f (m.apply s) = f s) {s t : State}
    (h : exec i s = .next t) : f t = f s :=
  exec_keeps (P := fun u => f u = f s) (fun u => by simp only [hf]) (fun u v hu huv => (hg u v (gap_ok huv)).trans hu)
    (fun m u hm _ hu => (hstep m u hm).trans hu) h rfl

theorem apply_keeps_disarmed {m : MicroStep} (hm : m ≠ .setRefresh true) {s : State} (h : s.refreshEnabled = false) :
    (m.apply s).refreshEnabled = false := by
  cases m with
  | setRefresh b => simpa [MicroStep.apply] using hm
  | _ => exact h

/-- While refresh is off no tick runs, and no allowed micro-step arms it. -/
theorem Acts.leaves_of_disarmed {β : Type} {i : Instr} (f : State → β) (hf : ∀ s, f s.bare = f s)
    (hstep : ∀ m s, mayWrite i m = true → f (m.apply s) = f s) {s t : State} (h : Acts i s t)
    (hs : s.refreshEnabled = false) : t.refreshEnabled = false ∧ f t = f s := by
  refine h.keeps (P := fun u => u.refreshEnabled = false ∧ f u = f s)
    (fun u => by simp only [hf, State.bare_refreshEnabled]) ?_ ?_ ⟨hs, rfl⟩
  · rintro u v ⟨he, hu⟩ hv
    have hd : u.tickEnabled = false := by simp [State.tickEnabled, he]
    obtain rfl : u = v := by simpa [gap_of_disabled hd] using hv
    exact ⟨he, hu⟩
  · rintro m u ⟨hw, hm⟩ - ⟨he, hu⟩
    exact ⟨apply_keeps_disarmed hm he, (hstep m u hw).trans hu⟩

/-- Where refresh is off no tick runs during a command, so what none of its micro-steps writes it leaves, also if a tick
writes it: the one micro-step that arms refresh is the last. -/
theorem exec_leaves_of_disarmed {β : Type} {i : Instr} (f : State → β) (hf : ∀ s, f s.bare = f s)
    (hstep : ∀ m s, mayWrite i m = true → f (m.apply s) = f s) {s t : State} (h : exec i s = .next t)
    (hs : s.refreshEnabled = false) : f t = f s := by
  obtain ⟨u, hu, rfl⟩ := exec_completes i s t h
  have idle (v : State) : f v.idle = f v := by rw [← hf v.idle, State.bare_idle, hf]
  rw [idle, ← idle s]
  cases hu with
  | plain hv => exact (hv.leaves_of_disarmed f hf hstep hs).2
  | @armed v hv hw =>
    calc f (v.performed 0 false (.setRefresh true))
        = f ((MicroStep.setRefresh true).apply v) := by rw [← hf, State.bare_performed, hf]
      _ = f v := hstep _ v hw
      _ = f s.idle := (hv.leaves_of_disarmed f hf hstep hs).2

/-! ### Signal cells -/

theorem State.line_setLine_same (n : Signal) (l : Line) (s : State) : (s.setLine n l).line n = l :=
  Signals.get_set_same _ _ _

theorem State.line_setLine_other {n k : Signal} (l : Line) (s : State) (h : k ≠ n) :
    (s.setLine n l).line k = s.line k := Signals.get_set_other _ _ h

theorem State.asserted_setLine_other {n k : Signal} (l : Line) (s : State) (h : k ≠ n) :
    (s.setLine n l).asserted k = s.asserted k := by
  simp only [State.asserted, State.line_setLine_other l s h]

theorem State.asserted_iff {s : State} {n : Signal} :
    s.asserted n = true ↔ (s.line n).dir = .output ∧ (s.line n).lvl = activeLevel n := by
  simp [State.asserted]

/-- What a write of a signal cell makes of TEST's cell and of `busGranted` (10_state.md R37): nothing, where the signal is
another; and the bus stays granted where TEST is asserted afterwards, and is lost where it is not. -/
theorem setLine_test (n : Signal) (l : Line) (s : State) :
    ((s.setLine n l).asserted .test = s.asserted .test ∧ (s.setLine n l).busGranted = s.busGranted) ∨
    ((s.setLine n l).asserted .test = true ∧ (s.setLine n l).busGranted = s.busGranted) ∨
    ((s.setLine n l).asserted .test = false ∧ (s.setLine n l).busGranted = false) := by
  by_cases hn : n = .test
  · subst hn
    by_cases hl : l.dir = .output ∧ l.lvl = activeLevel .test
    · exact .inr (.inl ⟨State.asserted_iff.2 (by simpa [State.line_setLine_same] using hl), by simp [hl]⟩)
    · refine .inr (.inr ⟨?_, by simp [hl]⟩)
      simpa [State.asserted, State.line_setLine_same] using hl
  · exact .inl ⟨State.asserted_setLine_other l s (Ne.symm hn), by simp [hn]⟩

/-! ### What each micro-step leaves, by cell -/

/-- What writes a wrapper's flag writes its mask with it (10_state.md R28, R32). -/
theorem writesAbMask_of_writesAbFlag {i : Instr} (h : writesAbFlag i = true) : writesAbMask i = true := by
  cases i with
  | spAdir => rfl
  | _ => exact h

theorem writesDbMask_of_writesDbFlag {i : Instr} (h : writesDbFlag i = true) : writesDbMask i = true := by
  cases i with
  | spDdir => rfl
  | _ => exact h

section
variable {i : Instr} {m : MicroStep} (hm : mayWrite i m = true) (s : State)
include hm

theorem apply_line_dir {n : Signal} (h : writesDir i n = false) : ((m.apply s).line n).dir = (s.line n).dir := by
  cases m with
  | setDir k _ | driveOut k _ =>
    have hk : n ≠ k := by rintro rfl; simp [mayWrite, h] at hm
    exact congrArg Line.dir (State.line_setLine_other _ s hk)
  | write k l =>
    by_cases hk : n = k
    · subst hk
      simp only [MicroStep.apply, State.line_setLine_same]
    · exact congrArg Line.dir (State.line_setLine_other _ s hk)
  | _ => rfl

theorem apply_line_lvl {n : Signal} (h : writesLevel i n = false) : ((m.apply s).line n).lvl = (s.line n).lvl := by
  cases m with
  | write k _ | driveOut k _ =>
    have hk : n ≠ k := by rintro rfl; simp [mayWrite, h] at hm
    exact congrArg Line.lvl (State.line_setLine_other _ s hk)
  | setDir k d =>
    by_cases hk : n = k
    · subst hk
      simp only [MicroStep.apply, State.line_setLine_same]
    · exact congrArg Line.lvl (State.line_setLine_other _ s hk)
  | _ => rfl

theorem apply_abLatch (h : writesAbLatch i = false) : (m.apply s).ab.latch = s.ab.latch := by
  cases m with
  | abLatch v => simp [mayWrite, h] at hm
  | _ => rfl

theorem apply_abMask (h : writesAbMask i = false) : (m.apply s).ab.mask = s.ab.mask := by
  cases m with
  | abMask v =>
    obtain rfl : i = .spAdir v := by simpa [mayWrite] using hm
    cases h
  | abSetReadable | abSetWritable => simp [writesAbMask_of_writesAbFlag hm] at h
  | _ => rfl

theorem apply_abWritable (h : writesAbFlag i = false) : (m.apply s).ab.writable = s.ab.writable := by
  cases m with
  | abSetReadable | abSetWritable => simp [mayWrite, h] at hm
  | _ => rfl

theorem apply_dbLatch (h : writesDbLatch i = false) : (m.apply s).db.latch = s.db.latch := by
  cases m with
  | dbLatch v => simp [mayWrite, h] at hm
  | _ => rfl

theorem apply_dbMask (h : writesDbMask i = false) : (m.apply s).db.mask = s.db.mask := by
  cases m with
  | dbMask v =>
    obtain rfl : i = .spDdir v := by simpa [mayWrite] using hm
    cases h
  | dbSetReadable | dbSetWritable => simp [writesDbMask_of_writesDbFlag hm] at h
  | _ => rfl

theorem apply_dbWritable (h : writesDbFlag i = false) : (m.apply s).db.writable = s.db.writable := by
  cases m with
  | dbSetReadable | dbSetWritable => simp [mayWrite, h] at hm
  | _ => rfl

theorem apply_mutable (h : i ≠ .bcTeston) (h' : i ≠ .bcTestoff) (h'' : i ≠ .bcShutdown) :
    (m.apply s).mutable = s.mutable := by
  cases m with
  | setMutable b => simp [mayWrite, h, h', h''] at hm
  | _ => rfl

theorem apply_refreshEnabled (h : writesRefresh i = false) : (m.apply s).refreshEnabled = s.refreshEnabled := by
  cases m with
  | setRefresh b => simp [mayWrite, h] at hm
  | _ => rfl

theorem apply_refreshConfigured (h : ∀ rc, i ≠ .bcInit rc) :
    (m.apply s).refreshConfigured = s.refreshConfigured := by
  cases m with
  | setConfigured b => simp [mayWrite, h b] at hm
  | _ => rfl

theorem apply_refreshRow : (m.apply s).refreshRow = s.refreshRow := by
  cases m with
  | nextRow => simp [mayWrite] at hm
  | _ => rfl

theorem apply_masked (h : runsCycles i = false) : (m.apply s).masked = s.masked := by
  cases m with
  | setMasked b => simp [mayWrite, h] at hm
  | _ => rfl

theorem apply_memory (h : writesMemory i = false) : (m.apply s).memory = s.memory := by
  cases m with
  | memWrite a d => simp [mayWrite, h] at hm
  | grant b =>
    obtain rfl : i = .bcTeston := by simpa [mayWrite] using hm
    exact absurd h (by decide)
  | _ => rfl

/-- Only BC.TESTON sets `busGranted` (10_state.md R37). -/
theorem apply_ungranted (h : i ≠ .bcTeston) (hs : s.busGranted = false) : (m.apply s).busGranted = false := by
  have hset (n : Signal) (l : Line) : (s.setLine n l).busGranted = false := by simp [hs]
  cases m with
  | setDir | write | driveOut => exact hset _ _
  | grant b => simp [mayWrite, h] at hm
  | _ => exact hs

end

/-! ### The row and the trace (10_state.md R38, 44_interrupt_refresh.md R271) -/

/-- From `s` to `t` the trace grew, and the row moved by the ticks that the new part shows. -/
def RowMoves (s t : State) : Prop :=
  ∃ es, t.trace = s.trace ++ es ∧ t.refreshRow.toNat = (s.refreshRow.toNat + increments es) % 128

theorem RowMoves.of_events {s t : State} (es : List Event) (ht : t.trace = s.trace ++ es) (h0 : increments es = 0)
    (hr : t.refreshRow = s.refreshRow) : RowMoves s t :=
  ⟨es, ht, by rw [h0, hr]; omega⟩

theorem RowMoves.refl (s : State) : RowMoves s s := .of_events [] (List.append_nil _).symm rfl rfl

theorem RowMoves.trans {s t u : State} (h : RowMoves s t) (g : RowMoves t u) : RowMoves s u := by
  obtain ⟨es, he, hr⟩ := h
  obtain ⟨fs, hf, gr⟩ := g
  refine ⟨es ++ fs, by rw [hf, he, List.append_assoc], ?_⟩
  have : increments (es ++ fs) = increments es + increments fs := List.countP_append
  omega

/-- A tick that succeeds only logs, while Immutable, and is performed whole, while Mutable (R271). -/
theorem tick_ok_cases {s t : State} (h : tick s = .ok t) :
    t = s.record .refresh (.log .errNotMutable) ∨ t = ticked s := by
  cases hm : s.mutable with
  | false =>
    rw [tick_immutable hm, tickStep_ok_iff] at h
    exact .inl h.2.2
  | true =>
    have hsteps := h
    simp only [tick, hm, if_true, bind_ok_iff, tickStep_ok_iff] at hsteps
    obtain ⟨_, ⟨-, hc, rfl⟩, _, ⟨hp, -, rfl⟩, -⟩ := hsteps
    have hr : s.signals.ras.dir = .output := by
      cases hd : s.signals.ras.dir with
      | output => rfl
      | input => simp [MicroStep.prevented, MicroStep.apply, State.line, Signals.get, hd] at hp
    rw [tick_mutable hm hr (show s.contention = false from hc)] at h
    exact .inr (Except.ok.inj h).symm

theorem rowMoves_ticked (s : State) : RowMoves s (ticked s) := by
  refine ⟨_, rfl, ?_⟩
  show (s.refreshRow + 1).toNat = (s.refreshRow.toNat + 1) % 128
  simp [BitVec.toNat_add]

theorem rowMoves_record {a : Agent} {m : MicroStep} (hm : m ≠ .nextRow) (s : State) : RowMoves s (s.record a m) :=
  .of_events [⟨a, m⟩] rfl (by simp [increments, hm]) rfl

theorem rowMoves_runTicks {n : Nat} {s t : State} (h : runTicks n s = .ok t) : RowMoves s t := by
  induction n generalizing s with
  | zero =>
    cases h
    exact .refl _
  | succ n ih =>
    obtain ⟨u, hu, h⟩ := bind_ok_iff.1 h
    rcases tick_ok_cases hu with rfl | rfl
    · exact (rowMoves_record (by simp) s).trans (ih h)
    · exact (rowMoves_ticked s).trans (ih h)

theorem rowMoves_boundary {s t : State} (h : boundary s = .ok t) : RowMoves s t := by
  unfold boundary at h
  split at h
  · exact rowMoves_runTicks (s := s.skip 1) h
  · cases h; exact .refl _

theorem rowMoves_gap {s t : State} (h : gap s = .ok t) : RowMoves s t := by
  unfold gap at h
  split at h
  · cases h; exact .refl _
  · exact rowMoves_boundary h

theorem rowMoves_performed {i : Instr} {m : MicroStep} (hm : mayWrite i m = true) (k : Nat) (ack : Bool) (s : State) :
    RowMoves s (s.performed k ack m) :=
  .of_events [⟨.foreground, m⟩] (by simp) (by simp [increments]) (by simp [apply_refreshRow hm])

theorem Acts.rowMoves {i : Instr} {s t : State} (h : Acts i s t) : RowMoves s t := by
  induction h with
  | refl => exact .refl s
  | gap _ hg ih => exact ih.trans (rowMoves_gap hg)
  | act _ k ack m _ hm _ _ ih => exact ih.trans (rowMoves_performed hm.1 k ack _)
  | draw _ k ih => exact ih
  | memTaken _ _ ih => exact ih.trans (.of_events _ rfl (by simp [increments]) rfl)
  | ioTaken _ ih => exact ih.trans (.of_events _ rfl (by simp [increments]) rfl)

/-- The row moves by the ticks that ran during the command and by nothing else. -/
theorem exec_rowMoves {i : Instr} {s t : State} (h : exec i s = .next t) : RowMoves s t := by
  obtain ⟨u, hu, rfl⟩ := exec_completes i s t h
  show RowMoves s.idle u
  cases hu with
  | plain hv => exact hv.rowMoves
  | armed hv hw =>
    exact hv.rowMoves.trans (rowMoves_performed (i := i) (m := .setRefresh true) hw 0 false _)

/-! ### The mask of a cycle is cleared by its end (43_bus_cycles.md R225) -/

/-- A sequence ends with its last micro-step, and no hazard after it. -/
theorem seq_ok_getLast {ps : List Pick} {p : Pick} {s t : State} (hl : ps.getLast? = some p)
    (h : seq ps s = .ok t) : t.contention = false ∧ ∃ u : State, t = u.performed (p u).1 false (p u).2 := by
  obtain ⟨qs, rfl⟩ := List.getLast?_eq_some_iff.1 hl
  rw [seq_append, bind_ok_iff] at h
  obtain ⟨v, -, h⟩ := h
  obtain ⟨u, -, -, hc, rfl⟩ := micro_ok_iff.1 ((seq_singleton p v).symm.trans h)
  exact ⟨hc, u, rfl⟩

/-- Refresh ticks are not held off by a cycle (10_state.md R36). -/
abbrev Unmasked (s : State) : Prop := s.masked = false

theorem unmasked_gapKeeps : GapKeeps Unmasked := fun _ _ h hg => (gap_ok hg).masked.trans h

/-- Some command that runs no cycle is allowed the pick, so it leaves the mask. -/
theorem PickAllowed.keeps_unmasked {i : Instr} (hi : runsCycles i = false) {p : Pick} (hp : PickAllowed i p) :
    PickKeeps Unmasked p := fun s _ _ hu _ _ => (apply_masked (hp s).1 _ hi).trans hu

theorem respond_unmasked (v : Response) (s : State) : Keeps Unmasked id s (seq [respond v] s) :=
  Keeps.seq unmasked_gapKeeps (by
    simpa using PickAllowed.keeps_unmasked (i := .ver) rfl (pickAllowed_respond v)) s

theorem logStep_unmasked (k : LogKind) (s : State) : Keeps Unmasked id s (seq [logStep k] s) :=
  Keeps.seq unmasked_gapKeeps (by
    simpa using PickAllowed.keeps_unmasked (i := .ver) rfl (pickAllowed_logStep k)) s

/-- A sequence that ends with the clearing of the mask. -/
theorem unmasked_of_last {ps : List Pick} {s t : State} (hl : ps.getLast? = some (act (.setMasked false)))
    (h : seq ps s = .ok t) : Unmasked t := by
  obtain ⟨-, u, rfl⟩ := seq_ok_getLast hl h
  rfl

theorem rdmemBody_unmasked (a : Addr) (s : State) : Keeps Unmasked Prod.snd s (rdmemBody a s) := by
  unfold rdmemBody
  split
  · intro _ r h
    simp only [bind_ok_iff, pure_eq_ok, Except.ok.injEq] at h
    obtain ⟨_, -, _, -, t, ht, rfl⟩ := h
    exact unmasked_of_last rfl ht
  · exact (logStep_unmasked _ s).bind fun _ => Keeps.ok (proj := Prod.snd) id

theorem wrmemBody_unmasked (a : Addr) (d : Byte) (s : State) : Keeps Unmasked id s (wrmemBody a d s) := by
  unfold wrmemBody
  split
  · intro _ r h
    obtain ⟨_, -, h⟩ := bind_ok_iff.1 h
    exact unmasked_of_last rfl h
  · exact logStep_unmasked _ s

theorem rdioBody_unmasked (p : Byte) (s : State) : Keeps Unmasked Prod.snd s (rdioBody p s) := by
  unfold rdioBody
  split
  · intro _ r h
    split at h <;>
    · simp only [bind_ok_iff, pure_eq_ok, Except.ok.injEq] at h
      obtain ⟨_, -, _, -, t, ht, rfl⟩ := h
      exact unmasked_of_last rfl ht
  · exact (logStep_unmasked _ s).bind fun _ => Keeps.ok (proj := Prod.snd) id

theorem wrioBody_unmasked (p d : Byte) (s : State) : Keeps Unmasked id s (wrioBody p d s) := by
  unfold wrioBody
  split
  · intro _ r h
    split at h <;>
    · obtain ⟨_, -, h⟩ := bind_ok_iff.1 h
      exact unmasked_of_last rfl h
  · exact logStep_unmasked _ s

theorem readBytes_unmasked (a : Addr) (ks : List Nat) (s : State) :
    Keeps Unmasked Prod.snd s (readBytes a ks s) := by
  induction ks generalizing s with
  | nil => exact Keeps.ok (proj := Prod.snd) id
  | cons k ks ih =>
    exact (rdmemBody_unmasked _ s).bind fun t => (ih t.2).bind fun _ => Keeps.ok (proj := Prod.snd) id

theorem copyByte_unmasked (src dst : Addr) (k : Nat) (s : State) : Keeps Unmasked id s (copyByte src dst k s) :=
  (rdmemBody_unmasked _ s).bind fun t => wrmemBody_unmasked _ t.1 t.2

theorem command_unmasked {body : State → Except Fault State} {s t : State} (hs : Unmasked s)
    (hb : Keeps Unmasked id s.idle (body s.idle)) (h : command body s = .next t) : Unmasked t := by
  obtain ⟨u, hu, rfl⟩ := command_next_iff.1 h
  exact hb hs u hu

/-- No command leaves the mask set. -/
theorem exec_unmasked {i : Instr} {s t : State} (h : exec i s = .next t) (hs : Unmasked s) : Unmasked t := by
  cases i
  case bcRdmem =>
    unfold exec execBcRdmem at h
    exact command_unmasked hs ((rdmemBody_unmasked _ _).bind fun t => respond_unmasked _ t.2) h
  case bcWrmem => exact command_unmasked hs (wrmemBody_unmasked _ _ _) h
  case bcRdio =>
    unfold exec execBcRdio at h
    exact command_unmasked hs ((rdioBody_unmasked _ _).bind fun t => respond_unmasked _ t.2) h
  case bcWrio => exact command_unmasked hs (wrioBody_unmasked _ _ _) h
  case bcRdmemn =>
    unfold exec execBcRdmemn at h
    refine command_unmasked hs ?_ h
    split
    · exact Keeps.seq unmasked_gapKeeps (fun p hp => PickAllowed.keeps_unmasked (i := .ver) rfl (by
        revert p; simp)) _
    · split
      · refine Keeps.seq unmasked_gapKeeps (fun p hp => PickAllowed.keeps_unmasked (i := .ver) rfl ?_) _
        rcases List.mem_pair.1 hp with rfl | rfl
        · exact fun _ => allowed_log _
        · exact pickAllowed_respond _
      · exact Keeps.after (s := s.idle) (t := s.idle.skip 1) id
          ((readBytes_unmasked _ _ _).bind fun t => respond_unmasked _ t.2)
  case bcWrmemn =>
    unfold exec execBcWrmemn at h
    refine command_unmasked hs ?_ h
    split
    · exact logStep_unmasked _ _
    · split
      · exact logStep_unmasked _ _
      · split
        · exact Keeps.raise
        · exact Keeps.forEach (fun _ => wrmemBody_unmasked _ _) _ _
  case bcCopy =>
    unfold exec execBcCopy at h
    refine command_unmasked hs ?_ h
    split
    · exact logStep_unmasked _ _
    · refine Keeps.bind (p := id) ?_ fun t => Keeps.forEach (copyByte_unmasked _ _) _ t
      split
      · exact logStep_unmasked _ _
      · exact Keeps.ok id
  case bcFill =>
    unfold exec execBcFill at h
    refine command_unmasked hs ?_ h
    split
    · exact logStep_unmasked _ _
    · exact Keeps.forEach (fun _ => wrmemBody_unmasked _ _) _ _
  all_goals exact (exec_leaves State.masked (fun _ => rfl) (fun _ _ h => h.masked)
    (fun _ u hm => apply_masked hm u rfl) h).trans hs

/-! ### Sequences that establish a property -/

/-- A micro-step in a sequence establishes a property, and the rest of the sequence keeps it. -/
theorem seq_establishes {P : State → Prop} {p : Pick} (ps qs : List Pick) (hg : GapKeeps P)
    (hp : ∀ s : State, P (s.performed (p s).1 false (p s).2)) (hqs : ∀ q ∈ qs, PickKeeps P q) {s t : State}
    (h : seq (ps ++ p :: qs) s = .ok t) : P t := by
  rw [seq_append, bind_ok_iff] at h
  obtain ⟨u, -, h⟩ := h
  rw [seq_cons, bind_ok_iff] at h
  obtain ⟨v, hv, h⟩ := h
  obtain ⟨w, -, -, -, rfl⟩ := micro_ok_iff.1 hv
  exact Keeps.seq hg hqs _ (hp w) t h

/-- A command of one pick is that micro-step. -/
theorem command_singleton_ok {p : Pick} {s t : State} (h : command (seq [p]) s = .next t) :
    t = (s.idle.performed (p s.idle).1 false (p s.idle).2).idle := by
  obtain ⟨u, hu, rfl⟩ := command_next_iff.1 h
  obtain ⟨v, hv, -, -, rfl⟩ := micro_ok_iff.1 ((seq_singleton p _).symm.trans hu)
  rw [gap_of_start rfl] at hv
  cases hv
  rfl

/-- An SP command that completes is its micro-step on some signal. -/
theorem onSignal_singleton_ok {sig : BitVec 4} {m : Signal → MicroStep} {s t : State}
    (h : command (onSignal sig fun n => seq [act (m n)]) s = .next t) :
    ∃ n, t = (s.idle.performed 0 false (m n)).idle := by
  cases hn : signalOfField sig with
  | none =>
    obtain ⟨u, hu, -⟩ := command_next_iff.1 h
    simp [onSignal, hn] at hu
  | some n =>
    refine ⟨n, command_singleton_ok (p := act (m n)) (h ▸ ?_)⟩
    simp [command, onSignal, hn]

/-! ### Micro-steps that leave TEST alone -/

/-- The micro-step does not write TEST's cell. -/
def sparesTest : MicroStep → Bool
  | .setDir n _ | .write n _ | .driveOut n _ => n != .test
  | _ => true

/-- The CPU has granted the bus (10_state.md R37). -/
abbrev Granted (s : State) : Prop := s.busGranted = true
/-- BMC asserts TEST (R25). -/
abbrev TestAsserted (s : State) : Prop := s.asserted .test = true

theorem apply_asserted_test {m : MicroStep} (hm : sparesTest m = true) (s : State) :
    (m.apply s).asserted .test = s.asserted .test := by
  cases m with
  | setDir n _ | write n _ | driveOut n _ =>
    have hn : Signal.test ≠ n := by rintro rfl; simp [sparesTest] at hm
    exact State.asserted_setLine_other _ s hn
  | _ => rfl

theorem apply_granted {m : MicroStep} (hm : sparesTest m = true) {s : State} (hs : Granted s) :
    Granted (m.apply s) := by
  cases m with
  | setDir n _ | write n _ | driveOut n _ =>
    have hn : n ≠ .test := by rintro rfl; simp [sparesTest] at hm
    simpa [Granted, MicroStep.apply, hn] using hs
  | grant => rfl
  | _ => exact hs

theorem granted_gapKeeps : GapKeeps Granted := fun _ _ h hg => (gap_ok hg).busGranted.trans h

theorem testAsserted_gapKeeps : GapKeeps TestAsserted := fun _ _ h hg =>
  ((gap_ok hg).asserted_eq (by decide)).trans h

/-- Whatever micro-step is picked, it does not write TEST's cell. -/
def PickSpares (p : Pick) : Prop := ∀ s, sparesTest (p s).2 = true

theorem PickSpares.keeps_granted {p : Pick} (h : PickSpares p) : PickKeeps Granted p :=
  fun s _ _ hu _ _ => apply_granted (h s) hu

theorem PickSpares.keeps_testAsserted {p : Pick} (h : PickSpares p) : PickKeeps TestAsserted p :=
  fun s u _ hu _ _ => (apply_asserted_test (h s) u).trans hu

@[simp] theorem pickSpares_act {m : MicroStep} : PickSpares (act m) ↔ sparesTest m = true :=
  ⟨fun h => h State.reset, fun h _ => h⟩

@[simp] theorem pickSpares_hold (h : Hold) : PickSpares (hold h) := fun _ => rfl

@[simp] theorem pickSpares_driveSafe {n : Signal} : PickSpares (driveSafe n) ↔ n ≠ .test := by
  simp [driveSafe, sparesTest]

@[simp] theorem pickSpares_abSetwBody : PickSpares abSetwBody := fun s => by unfold abSetwBody; split <;> rfl

@[simp] theorem pickSpares_dbSetrBody : PickSpares dbSetrBody := fun s => by unfold dbSetrBody; split <;> rfl

@[simp] theorem pickSpares_refonBody : PickSpares refonBody := fun s => by unfold refonBody; split_ifs <;> rfl

/-! ### BC.TESTON -/

/-- `busGranted <- true`, with the environment's word on the target memory (42_mastership.md R191, log entry 6). -/
def grantPick : Pick := fun s => (1, .grant (s.drawnBool 0))

@[simp] theorem pickSpares_grantPick : PickSpares grantPick := fun _ => rfl

/-- What BC.TESTON does to the lines once the bus is granted (R191). -/
def takeLines : List Pick :=
  [abSetwBody, dbSetrBody, driveSafe .ras, driveSafe .cas, driveSafe .mux, driveSafe .rd, driveSafe .wr,
    driveSafe .ioIn, driveSafe .ioOut]

/-- The end of BC.TESTON: BC.REFON's body, where a refresh timer mode was configured. -/
def armPicks (s : State) : List Pick := if s.refreshConfigured then [refonBody] else []

/-- The picks of BC.TESTON after it asserted TEST. -/
def takeTail (s : State) : List Pick :=
  [hold .tSettle, grantPick] ++ takeLines ++ act (.setMutable true) :: armPicks s

theorem exec_bcTeston_of_immutable {s : State} (hm : s.mutable = false) :
    exec .bcTeston s = command (seq (act .check :: assertLine .test :: takeTail s)) s := by
  have hm' : s.idle.mutable = false := hm
  simp only [exec, execBcTeston, command, hm', Bool.false_eq_true, if_false]
  rfl

theorem pickSpares_takeTail (s : State) : ∀ p ∈ takeTail s, PickSpares p := by
  cases h : s.refreshConfigured <;> simp [takeTail, takeLines, armPicks, h, sparesTest]

theorem refonBody_keeps_mutable : PickKeeps (fun s => s.mutable = true) refonBody := by
  intro s u k hu _ _
  unfold refonBody
  split_ifs <;> exact hu

/-- BC.TESTON from Immutable ends Mutable, with TEST asserted and the bus granted (R191). -/
theorem exec_bcTeston_ok {s t : State} (h : exec .bcTeston s = .next t) (hm : s.mutable = false) :
    t.mutable = true ∧ TestAsserted t ∧ Granted t := by
  rw [exec_bcTeston_of_immutable hm, command_next_iff] at h
  obtain ⟨u, hu, rfl⟩ := h
  have spares := pickSpares_takeTail s
  show u.mutable = true ∧ TestAsserted u ∧ Granted u
  refine ⟨?_, ?_, ?_⟩
  · refine seq_establishes (P := fun s => s.mutable = true) (p := act (.setMutable true))
      ([act .check, assertLine .test, hold .tSettle, grantPick] ++ takeLines) (armPicks s)
      (fun _ _ h hg => (gap_ok hg).mutable.trans h) (fun _ => rfl) (fun q hq => ?_) hu
    obtain rfl : q = refonBody := by
      unfold armPicks at hq
      split at hq
      · exact List.mem_singleton.1 hq
      · cases hq
    exact refonBody_keeps_mutable
  · exact seq_establishes (P := TestAsserted) (p := assertLine .test) [act .check] (takeTail s)
      testAsserted_gapKeeps (fun _ => rfl) (fun q hq => (spares q hq).keeps_testAsserted) hu
  · exact seq_establishes (P := Granted) (p := grantPick) [act .check, assertLine .test, hold .tSettle]
      (takeLines ++ act (.setMutable true) :: armPicks s) granted_gapKeeps (fun _ => rfl)
      (fun q hq => (spares q (List.mem_cons_of_mem _ (List.mem_cons_of_mem _ hq))).keeps_granted) hu

theorem bare_of_logStep {k : LogKind} {s t : State} (h : command (seq [logStep k]) s = .next t) :
    t.bare = s.bare := by
  rw [command_singleton_ok h, State.bare_idle, State.bare_performed]
  rfl

/-- BC.TESTON while Mutable only warns (R191). -/
theorem exec_bcTeston_of_mutable {s t : State} (hm : s.mutable = true) (h : exec .bcTeston s = .next t) :
    t.bare = s.bare := by
  have hm' : s.idle.mutable = true := hm
  refine bare_of_logStep (k := .wrnRedundant) ?_
  rw [← h]
  simp only [exec, execBcTeston, command, hm', if_true]

/-! ### TEST and the bus (10_state.md R37) -/

/-- Only an SP command or BC.TESTON can make TEST asserted. -/
theorem writesLevel_test_cases {i : Instr} (h : writesLevel i .test = true) :
    i = .bcTeston ∨ ∃ sig l, i = .spSet sig l := by
  cases i with
  | spSet sig l => exact .inr ⟨sig, l, rfl⟩
  | bcTeston => exact .inl rfl
  | _ => cases h

/-- A write of a signal's cell that loses the bus leaves TEST not asserted. -/
theorem setLine_loses_grant {n : Signal} {l : Line} {s : State} (hs : Granted s)
    (ht : (s.setLine n l).busGranted = false) : (s.setLine n l).asserted .test = false := by
  rcases setLine_test n l s with ⟨-, hb⟩ | ⟨-, hb⟩ | ⟨ha, -⟩
  · exact absurd (hb.symm.trans ht) (by simp [hs])
  · exact absurd (hb.symm.trans ht) (by simp [hs])
  · exact ha

/-- A command that never asserts TEST keeps that the bus is granted or TEST is not asserted. -/
theorem apply_granted_or_unasserted {i : Instr} (hl : writesLevel i .test = false) (hd : choosesDir i = false)
    {m : MicroStep} (hm : mayWrite i m = true) {s : State} (hs : Granted s ∨ s.asserted .test = false) :
    Granted (m.apply s) ∨ (m.apply s).asserted .test = false := by
  by_cases hn : sparesTest m = true
  · exact hs.imp (apply_granted hn) ((apply_asserted_test hn s).trans ·)
  · cases m with
    | setDir n d =>
      obtain rfl : n = .test := by simpa [sparesTest] using hn
      obtain ⟨-, rfl⟩ : writesDir i .test = true ∧ d = .input := by simpa [mayWrite, hd] using hm
      exact .inr (by simp [State.asserted, MicroStep.apply, State.line_setLine_same])
    | write n l | driveOut n l =>
      obtain rfl : n = .test := by simpa [sparesTest] using hn
      simp [mayWrite, hl] at hm
    | _ => exact absurd rfl hn

/-- `busGranted` falls only where TEST is not asserted afterwards. -/
theorem exec_loses_grant {i : Instr} {s t : State} (h : exec i s = .next t) (hs : Granted s)
    (ht : t.busGranted = false) : t.asserted .test = false := by
  cases hd : choosesDir i with
  | true =>
    cases i with
    | spDir sig d =>
      obtain ⟨n, rfl⟩ := onSignal_singleton_ok (m := fun n => .setDir n d) h
      exact setLine_loses_grant (s := s.idle) hs ht
    | _ => cases hd
  | false =>
    cases hl : writesLevel i .test with
    | true =>
      rcases writesLevel_test_cases hl with rfl | ⟨sig, l, rfl⟩
      · cases hm : s.mutable with
        | true =>
          have : t.bare.busGranted = true := by rw [exec_bcTeston_of_mutable hm h]; exact hs
          exact absurd (this.symm.trans ht) (by simp)
        | false =>
          obtain ⟨-, -, hg⟩ := exec_bcTeston_ok h hm
          exact absurd (hg.symm.trans ht) (by simp)
      · obtain ⟨n, rfl⟩ := onSignal_singleton_ok (m := fun n => .write n l) h
        exact setLine_loses_grant (s := s.idle) hs ht
    | false =>
      have hkeeps : Granted t ∨ t.asserted .test = false :=
        exec_keeps (P := fun u => Granted u ∨ u.asserted .test = false) (fun _ => Iff.rfl)
          (fun u v hu hv => hu.imp (granted_gapKeeps u v · hv) (((gap_ok hv).asserted_eq (by decide)).trans ·))
          (fun m u hm _ hu => apply_granted_or_unasserted hl hd hm hu) h (.inl hs)
      exact hkeeps.resolve_left fun hg => absurd (hg.symm.trans ht) (by simp)

/-- No micro-step but the grant breaks that TEST is asserted or the bus is not granted. -/
theorem apply_asserted_or_ungranted {i : Instr} (hi : i ≠ .bcTeston) {m : MicroStep} (hm : mayWrite i m = true)
    {s : State} (hs : TestAsserted s ∨ s.busGranted = false) :
    TestAsserted (m.apply s) ∨ (m.apply s).busGranted = false := by
  have hset (n : Signal) (l : Line) : TestAsserted (s.setLine n l) ∨ (s.setLine n l).busGranted = false := by
    rcases setLine_test n l s with ⟨ha, hb⟩ | ⟨ha, -⟩ | ⟨-, hb⟩
    · exact hs.imp (ha.trans ·) (hb.trans ·)
    · exact .inl ha
    · exact .inr hb
  cases m with
  | setDir | write | driveOut => exact hset _ _
  | grant => simp [mayWrite, hi] at hm
  | _ => exact hs

theorem exec_asserted_or_ungranted {i : Instr} (hi : i ≠ .bcTeston) {s t : State} (h : exec i s = .next t)
    (hs : TestAsserted s ∨ s.busGranted = false) : TestAsserted t ∨ t.busGranted = false :=
  exec_keeps (P := fun u => TestAsserted u ∨ u.busGranted = false) (fun _ => Iff.rfl)
    (fun u v hu hv => hu.imp (testAsserted_gapKeeps u v · hv) ((gap_ok hv).busGranted.trans ·))
    (fun _ _ hm _ hu => apply_asserted_or_ungranted hi hm hu) h hs

/-- Where TEST stops being asserted, the bus is not granted. -/
theorem exec_loses_test {i : Instr} {s t : State} (h : exec i s = .next t) (hs : TestAsserted s)
    (ht : t.asserted .test = false) : t.busGranted = false := by
  have lost : TestAsserted t → t.busGranted = false := fun ha => absurd (ha.symm.trans ht) (by simp)
  by_cases hi : i = .bcTeston
  · subst hi
    cases hm : s.mutable with
    | true =>
      have : t.bare.asserted .test = true := by rw [exec_bcTeston_of_mutable hm h]; exact hs
      exact lost this
    | false => exact lost (exec_bcTeston_ok h hm).2.1
  · exact (exec_asserted_or_ungranted hi h (.inl hs)).elim lost id

/-- Only BC.TESTON sets `busGranted`. -/
theorem exec_ungranted {i : Instr} (hi : i ≠ .bcTeston) {s t : State} (h : exec i s = .next t)
    (hs : s.busGranted = false) : t.busGranted = false :=
  exec_keeps (P := fun u => u.busGranted = false) (fun _ => Iff.rfl)
    (fun _ _ hu hv => (gap_ok hv).busGranted.trans hu) (fun _ u hm _ hu => apply_ungranted hm u hi hu) h hs

/-! ### The table of R20, for whole commands -/

section
variable {i : Instr} {s t : State} (h : exec i s = .next t)
include h

theorem exec_line_dir {n : Signal} (hn : writesDir i n = false) : (t.line n).dir = (s.line n).dir :=
  exec_leaves (fun u => (u.line n).dir) (fun _ => rfl) (fun _ _ h => h.line_dir n)
    (fun _ u hm => apply_line_dir hm u hn) h

theorem exec_line_lvl {n : Signal} (hn : writesLevel i n = false) (hr : n = .ras → s.refreshEnabled = false) :
    (t.line n).lvl = (s.line n).lvl := by
  by_cases hras : n = .ras
  · exact exec_leaves_of_disarmed (fun u => (u.line n).lvl) (fun _ => rfl)
      (fun _ u hm => apply_line_lvl hm u hn) h (hr hras)
  · exact exec_leaves (fun u => (u.line n).lvl) (fun _ => rfl) (fun _ _ h => congrArg Line.lvl (h.line_eq hras))
      (fun _ u hm => apply_line_lvl hm u hn) h

theorem exec_abLatch_high (hi : writesAbLatch i = false) : t.ab.latch &&& 0xFF00 = s.ab.latch &&& 0xFF00 :=
  exec_leaves (fun u => u.ab.latch &&& 0xFF00) (fun _ => rfl) (fun _ _ h => h.abHigh)
    (fun _ u hm => congrArg (· &&& 0xFF00) (apply_abLatch hm u hi)) h

theorem exec_abLatch (hi : writesAbLatch i = false) (hs : s.refreshEnabled = false) : t.ab.latch = s.ab.latch :=
  exec_leaves_of_disarmed (fun u => u.ab.latch) (fun _ => rfl) (fun _ u hm => apply_abLatch hm u hi) h hs

theorem exec_abMask (hi : writesAbMask i = false) : t.ab.mask = s.ab.mask :=
  exec_leaves (fun u => u.ab.mask) (fun _ => rfl) (fun _ _ h => h.abMask) (fun _ u hm => apply_abMask hm u hi) h

theorem exec_abWritable (hi : writesAbFlag i = false) : t.ab.writable = s.ab.writable :=
  exec_leaves (fun u => u.ab.writable) (fun _ => rfl) (fun _ _ h => h.abWritable)
    (fun _ u hm => apply_abWritable hm u hi) h

theorem exec_dbLatch (hi : writesDbLatch i = false) : t.db.latch = s.db.latch :=
  exec_leaves (fun u => u.db.latch) (fun _ => rfl) (fun _ _ h => congrArg Bus.latch h.db)
    (fun _ u hm => apply_dbLatch hm u hi) h

theorem exec_dbMask (hi : writesDbMask i = false) : t.db.mask = s.db.mask :=
  exec_leaves (fun u => u.db.mask) (fun _ => rfl) (fun _ _ h => congrArg Bus.mask h.db)
    (fun _ u hm => apply_dbMask hm u hi) h

theorem exec_dbWritable (hi : writesDbFlag i = false) : t.db.writable = s.db.writable :=
  exec_leaves (fun u => u.db.writable) (fun _ => rfl) (fun _ _ h => congrArg Bus.writable h.db)
    (fun _ u hm => apply_dbWritable hm u hi) h

theorem exec_mutable (h1 : i ≠ .bcTeston) (h2 : i ≠ .bcTestoff) (h3 : i ≠ .bcShutdown) : t.mutable = s.mutable :=
  exec_leaves State.mutable (fun _ => rfl) (fun _ _ h => h.mutable) (fun _ u hm => apply_mutable hm u h1 h2 h3) h

theorem exec_refreshEnabled (hi : writesRefresh i = false) : t.refreshEnabled = s.refreshEnabled :=
  exec_leaves State.refreshEnabled (fun _ => rfl) (fun _ _ h => h.refreshEnabled)
    (fun _ u hm => apply_refreshEnabled hm u hi) h

theorem exec_refreshConfigured (hi : ∀ rc, i ≠ .bcInit rc) : t.refreshConfigured = s.refreshConfigured :=
  exec_leaves State.refreshConfigured (fun _ => rfl) (fun _ _ h => h.refreshConfigured)
    (fun _ u hm => apply_refreshConfigured hm u hi) h

theorem exec_masked (hi : runsCycles i = false) : t.masked = s.masked :=
  exec_leaves State.masked (fun _ => rfl) (fun _ _ h => h.masked) (fun _ u hm => apply_masked hm u hi) h

theorem exec_fault : t.fault = s.fault :=
  exec_leaves State.fault (fun _ => rfl) (fun _ _ h => h.fault) (fun m u _ => m.apply_fault u) h

theorem exec_memory (hi : writesMemory i = false) : t.memory = s.memory :=
  exec_leaves State.memory (fun _ => rfl) (fun _ _ h => h.memory) (fun _ u hm => apply_memory hm u hi) h

theorem exec_params : t.params = s.params :=
  exec_leaves State.params (fun _ => rfl) (fun _ _ h => h.params) (fun m u _ => m.apply_params u) h

theorem exec_pending : t.pending = s.pending :=
  exec_leaves State.pending (fun _ => rfl) (fun _ _ h => h.pending) (fun m u _ => m.apply_pending u) h

theorem exec_buffer : t.buffer = s.buffer :=
  exec_leaves State.buffer (fun _ => rfl) (fun _ _ h => h.buffer) (fun m u _ => m.apply_buffer u) h

end

/-- Settles O14: every command is a run of micro-steps that R20's table allows it (`exec_completes`). -/
theorem cellsHaveTheirWriters : Obligations.CellsHaveTheirWriters := fun _ _ _ h =>
  ⟨fun _ hn => exec_line_dir h hn, fun _ hn hr => exec_line_lvl h hn hr,
    fun hi => ⟨exec_abLatch_high h hi, exec_abLatch h hi⟩, exec_abMask h, exec_abWritable h, exec_dbLatch h,
    exec_dbMask h, exec_dbWritable h, exec_mutable h, exec_refreshEnabled h, exec_rowMoves h,
    exec_refreshConfigured h, exec_masked h, exec_unmasked h, fun hi hs => exec_ungranted hi h hs, exec_loses_grant h,
    exec_loses_test h, exec_fault h, exec_memory h, exec_params h, exec_pending h, exec_buffer h⟩

/-! ### The foreground agent at rest again -/

theorem Acts.noContention {i : Instr} {s t : State} (h : Acts i s t) (hs : s.contention = false) :
    t.contention = false := by
  induction h with
  | refl => exact hs
  | gap _ hg ih => exact (gap_ok hg).contention.trans ih
  | act _ _ _ _ _ _ _ hc => exact hc
  | draw _ _ ih | memTaken _ _ ih | ioTaken _ ih => exact ih

/-- Outside BC.INT no micro-step is one that the safety predicate exempts. -/
theorem Acts.noAckDrive {i : Instr} (hi : acknowledges i = false) {s t : State} (h : Acts i s t)
    (hs : s.intAckDrive = false) : t.intAckDrive = false := by
  induction h with
  | refl => exact hs
  | gap _ hg ih => exact (gap_ok hg).intAckDrive.trans ih
  | act _ _ ack _ ha => simpa [hi] using ha
  | draw _ _ ih | memTaken _ _ ih | ioTaken _ ih => exact ih

/-- Where the exemption does not stand, the foreground's position plays no part in the safety predicate. -/
theorem quiet_of_noAckDrive {s : State} (hi : s.intAckDrive = false) (hc : s.contention = false) : Quiet s :=
  (contention_congr (s := s) (t := s.idle) rfl rfl rfl rfl hi.symm).trans hc

theorem seq_quiet {ps : List Pick} (hps : ps ≠ []) {s t : State} (h : seq ps s = .ok t) : Quiet t := by
  obtain ⟨hc, u, rfl⟩ := seq_ok_getLast (List.getLast?_eq_some_getLast hps) h
  exact quiet_of_noAckDrive rfl hc

/-- Each path of BC.INT ends with micro-steps that the safety predicate does not exempt (44_interrupt_refresh.md R260). -/
theorem execBcInt_quiet {code : Byte} {tmo : BitVec 16} {s t : State} (h : execBcInt code tmo s = .next t) :
    t.contention = false := by
  obtain ⟨u, hu, rfl⟩ := command_next_iff.1 h
  split at hu
  · exact seq_quiet (by simp) hu
  · simp only [bind_ok_iff] at hu
    obtain ⟨_, -, ⟨acked, v⟩, -, hu⟩ := hu
    cases acked with
    | true =>
      simp only [if_true, bind_ok_iff] at hu
      obtain ⟨_, -, _, -, _, -, _, -, hu⟩ := hu
      exact seq_quiet (by simp) hu
    | false => exact seq_quiet (by simp) hu

/-- A command that completes leaves no hazard for a foreground agent at rest. -/
theorem exec_quiet {i : Instr} {s t : State} (h : exec i s = .next t) (hs : Quiet s) : t.contention = false := by
  cases hi : acknowledges i with
  | true =>
    cases i with
    | bcInt => exact execBcInt_quiet h
    | _ => cases hi
  | false =>
    obtain ⟨u, hu, rfl⟩ := exec_completes i s t h
    cases hu with
    | plain hv => exact quiet_of_noAckDrive (hv.noAckDrive hi rfl) (hv.noContention hs)
    | armed _ _ _ _ hc => exact quiet_of_noAckDrive rfl hc

/-! ### What every micro-step keeps -/

/-- SYS_RES and INT_ACK are inputs (10_state.md R22). -/
abbrev InputOnlyIn (s : State) : Prop := ∀ n, inputOnly n = true → (s.line n).dir = .input

theorem inputOnly_cases {n : Signal} (hn : inputOnly n = true) : n = .sysRes ∨ n = .intAck := by
  cases n with
  | sysRes => exact .inl rfl
  | intAck => exact .inr rfl
  | _ => cases hn

theorem inputOnlyIn_iff {s : State} :
    InputOnlyIn s ↔ s.signals.sysRes.dir = .input ∧ s.signals.intAck.dir = .input := by
  refine ⟨fun h => ⟨h .sysRes rfl, h .intAck rfl⟩, fun ⟨hs, ha⟩ n hn => ?_⟩
  rcases inputOnly_cases hn with rfl | rfl
  · exact hs
  · exact ha

/-- No command drives an input-only line at a level of its own. -/
theorem not_drives_inputOnly {n : Signal} (hn : inputOnly n = true) (i : Instr) :
    writesLevel i n = false ∨ writesDir i n = false := by
  rcases inputOnly_cases hn with rfl | rfl
  all_goals cases i with
    | spSet => exact .inr rfl
    | _ => exact .inl rfl

theorem setLine_keeps_inputOnlyIn {s : State} (hs : InputOnlyIn s) {n : Signal} {l : Line}
    (hl : inputOnly n = true → l.dir = .input) : InputOnlyIn (s.setLine n l) := by
  intro k hk
  by_cases hn : k = n
  · subst hn
    rw [State.line_setLine_same]
    exact hl hk
  · rw [State.line_setLine_other l s hn]
    exact hs k hk

theorem apply_inputOnlyIn {i : Instr} {m : MicroStep} (hm : mayWrite i m = true) {s : State}
    (hp : m.prevented s = none) (hs : InputOnlyIn s) : InputOnlyIn (m.apply s) := by
  cases m with
  | setDir n d =>
    refine setLine_keeps_inputOnlyIn hs fun hn => ?_
    cases d with
    | input => rfl
    | output => simp [MicroStep.prevented, hn] at hp
  | write n l => exact setLine_keeps_inputOnlyIn hs (hs n)
  | driveOut n l =>
    refine setLine_keeps_inputOnlyIn hs fun hn => ?_
    rcases not_drives_inputOnly hn i with h | h <;> simp [mayWrite, h] at hm
  | _ => exact hs

theorem exec_inputOnlyIn {i : Instr} {s t : State} (h : exec i s = .next t) (hs : InputOnlyIn s) : InputOnlyIn t :=
  exec_keeps (P := InputOnlyIn) (fun _ => Iff.rfl)
    (fun _ _ hu hv n hn => ((gap_ok hv).line_dir n).trans (hu n hn))
    (fun _ _ hm hp hu => apply_inputOnlyIn hm hp hu) h hs

theorem apply_memoryWf (m : MicroStep) {s : State} (hs : s.memory.wf = true) : (m.apply s).memory.wf = true := by
  cases m with
  | grant b => cases b with
    | true => exact Memory.wf_nil
    | false => exact hs
  | memWrite a d =>
    show Memory.wf (ite _ _ _) = true
    split
    · exact Memory.wf_write _ d hs a.isLt
    · exact hs
  | _ => exact hs

theorem exec_memoryWf {i : Instr} {s t : State} (h : exec i s = .next t) (hs : s.memory.wf = true) :
    t.memory.wf = true :=
  exec_keeps (P := fun u => u.memory.wf = true) (fun _ => Iff.rfl)
    (fun _ _ hu hv => (congrArg Memory.wf (gap_ok hv).memory).trans hu) (fun m _ _ _ hu => apply_memoryWf m hu) h hs

/-! ### The wrapper flags while Immutable -/

/-- A writable wrapper drives its whole bus: what its own commands leave, and a raw SP.ADIR or SP.DDIR need not. -/
structure WritableDriven (s : State) : Prop where
  ab : s.ab.writable = true → s.ab.mask = 0xFFFF
  db : s.db.writable = true → s.db.mask = 0xFF

theorem apply_writableDriven {i : Instr} (ha : ∀ v, i ≠ .spAdir v) (hd : ∀ v, i ≠ .spDdir v) {m : MicroStep}
    (hm : mayWrite i m = true) {s : State} (hs : WritableDriven s) : WritableDriven (m.apply s) := by
  obtain ⟨ab, db⟩ := hs
  cases m with
  | abMask v => simp [mayWrite, ha v] at hm
  | dbMask v => simp [mayWrite, hd v] at hm
  | abSetReadable => exact ⟨fun h => absurd h (by simp [MicroStep.apply]), db⟩
  | abSetWritable => exact ⟨fun _ => rfl, db⟩
  | dbSetReadable => exact ⟨ab, fun h => absurd h (by simp [MicroStep.apply])⟩
  | dbSetWritable => exact ⟨ab, fun _ => rfl⟩
  | _ => exact ⟨ab, db⟩

theorem TicksOnly.writableDriven {s t : State} (h : TicksOnly s t) (hs : WritableDriven s) : WritableDriven t := by
  obtain ⟨ab, db⟩ := hs
  rw [← h.abWritable, ← h.abMask] at ab
  rw [← h.db] at db
  exact ⟨ab, db⟩

theorem exec_writableDriven {i : Instr} (ha : ∀ v, i ≠ .spAdir v) (hd : ∀ v, i ≠ .spDdir v) {s t : State}
    (h : exec i s = .next t) (hs : WritableDriven s) : WritableDriven t :=
  exec_keeps (P := WritableDriven) (fun _ => ⟨fun h => ⟨h.ab, h.db⟩, fun h => ⟨h.ab, h.db⟩⟩)
    (fun _ _ hu hv => (gap_ok hv).writableDriven hu) (fun _ _ hm _ hu => apply_writableDriven ha hd hm hu) h hs

/-- Both wrappers are readable. -/
def Readable (s : State) : Prop := s.ab.writable = false ∧ s.db.writable = false

/-- Without the bus granted a writable wrapper is a hazard, unless a raw command took its mask away. -/
theorem WritableDriven.readable {s : State} (h : WritableDriven s) (hg : s.busGranted = false)
    (hi : s.intAckDrive = false) (hc : s.contention = false) : Readable s := by
  obtain ⟨ha, -, hd⟩ := (contention_of_not_granted hg hi).1 hc
  refine ⟨?_, ?_⟩
  · by_contra hw
    exact absurd (ha.symm.trans (h.ab (by simpa using hw))) (by decide)
  · by_contra hw
    exact absurd (hd.symm.trans (h.db (by simpa using hw))) (by decide)

/-! ### Giving the bus back (42_mastership.md R193, 45_queries_diagnostics.md R305, R306) -/

/-- Refresh is off, the bus is not granted and both wrappers are readable: how BC.TESTOFF and BC.SHUTDOWN leave BMC. -/
structure HandedBack (s : State) : Prop where
  disarmed : s.refreshEnabled = false
  ungranted : s.busGranted = false
  abReadable : s.ab.writable = false
  dbReadable : s.db.writable = false

theorem disarmed_gapKeeps : GapKeeps (fun s => s.refreshEnabled = false) :=
  fun _ _ h hg => (gap_ok hg).refreshEnabled.trans h

theorem ungranted_gapKeeps : GapKeeps (fun s => s.busGranted = false) :=
  fun _ _ h hg => (gap_ok hg).busGranted.trans h

theorem abReadable_gapKeeps : GapKeeps (fun s => s.ab.writable = false) :=
  fun _ _ h hg => (gap_ok hg).abWritable.trans h

theorem dbReadable_gapKeeps : GapKeeps (fun s => s.db.writable = false) :=
  fun _ _ h hg => (congrArg Bus.writable (gap_ok hg).db).trans h

theorem PickAllowed.keeps_disarmed {i : Instr} {p : Pick} (hp : PickAllowed i p) :
    PickKeeps (fun s => s.refreshEnabled = false) p := fun s _ _ hu _ _ => apply_keeps_disarmed (hp s).2 hu

theorem PickAllowed.keeps_ungranted {i : Instr} (hi : i ≠ .bcTeston) {p : Pick} (hp : PickAllowed i p) :
    PickKeeps (fun s => s.busGranted = false) p := fun s u _ hu _ _ => apply_ungranted (hp s).1 u hi hu

/-- Releasing TEST loses the bus (R37). -/
theorem release_test_ungrants (s : State) :
    (s.performed (release .test s).1 false (release .test s).2).busGranted = false := by
  simp [release, act, MicroStep.apply]

theorem act_keeps_abReadable {m : MicroStep} (hm : m ≠ .abSetWritable) :
    PickKeeps (fun s => s.ab.writable = false) (act m) := by
  intro s u _ hu _ _
  cases m with
  | abSetWritable => exact absurd rfl hm
  | abSetReadable => rfl
  | _ => exact hu

theorem act_keeps_dbReadable {m : MicroStep} (hm : m ≠ .dbSetWritable) :
    PickKeeps (fun s => s.db.writable = false) (act m) := by
  intro s u _ hu _ _
  cases m with
  | dbSetWritable => exact absurd rfl hm
  | dbSetReadable => rfl
  | _ => exact hu

theorem refoffBody_disarms (s : State) :
    (s.performed (refoffBody s).1 false (refoffBody s).2).refreshEnabled = false := by
  unfold refoffBody
  split
  · rfl
  · next h => simpa [MicroStep.apply, redundantStep] using h

theorem abSetrBody_readable (s : State) :
    (s.performed (abSetrBody s).1 false (abSetrBody s).2).ab.writable = false := by
  unfold abSetrBody
  split
  · rfl
  · next h => simpa [MicroStep.apply, redundantStep] using h

theorem dbSetrBody_readable (s : State) :
    (s.performed (dbSetrBody s).1 false (dbSetrBody s).2).db.writable = false := by
  unfold dbSetrBody
  split
  · rfl
  · next h => simpa [MicroStep.apply, redundantStep] using h

theorem abSetrBody_keeps_dbReadable : PickKeeps (fun s => s.db.writable = false) abSetrBody := by
  intro s u _ hu _ _
  unfold abSetrBody
  split <;> exact hu

theorem hold_keeps {P : State → Prop} (hP : OfCells P) (h : Hold) : PickKeeps P (hold h) :=
  fun _ _ _ hu _ _ => hP.of_bare_eq (State.bare_performed _ false _ _) hu

theorem testoffBody_handsBack {s t : State} (hm : s.mutable = true) (h : testoffBody s = .ok t) : HandedBack t := by
  rw [testoffBody_of_mutable hm] at h
  refine ⟨?_, ?_, ?_, ?_⟩
  · exact seq_establishes (p := refoffBody) [act .check] giveBackTail disarmed_gapKeeps refoffBody_disarms
      (fun q hq => (pickAllowed_giveBackTail givesBack_bcTestoff q hq).keeps_disarmed) h
  · exact seq_establishes (p := deassertLine .test)
      ([act .check, refoffBody] ++ giveBackLines ++ [dbSetrBody, abSetrBody]) [hold .tSettle]
      ungranted_gapKeeps release_test_ungrants (by simpa using hold_keeps (fun _ => Iff.rfl) _) h
  · exact seq_establishes (p := abSetrBody) ([act .check, refoffBody] ++ giveBackLines ++ [dbSetrBody])
      [deassertLine .test, hold .tSettle] abReadable_gapKeeps abSetrBody_readable (by
        simpa using ⟨act_keeps_abReadable (by simp [requestLine]), hold_keeps (fun _ => Iff.rfl) _⟩) h
  · exact seq_establishes (p := dbSetrBody) ([act .check, refoffBody] ++ giveBackLines)
      [abSetrBody, deassertLine .test, hold .tSettle] dbReadable_gapKeeps dbSetrBody_readable (by
        simpa using ⟨abSetrBody_keeps_dbReadable, act_keeps_dbReadable (by simp [requestLine]),
          hold_keeps (fun _ => Iff.rfl) _⟩) h

/-- The releases of BC.INIT and BC.SHUTDOWN, in the order of `releaseAll`, up to TEST. -/
def releasesBeforeTest : List Pick := ([.ras, .cas, .mux, .rd, .wr, .ioIn, .ioOut, .int] : List Signal).map release

/-- Those after it. -/
def releasesAfterTest : List Pick :=
  ([.wait, .sysRes, .intAck] : List Signal).map release ++ [act .abSetReadable, act .dbSetReadable]

theorem releaseAll_eq : releaseAll = releasesBeforeTest ++ release .test :: releasesAfterTest := rfl

theorem pickAllowed_bcShutdown_releaseAll : ∀ p ∈ releaseAll, PickAllowed .bcShutdown p :=
  pickAllowed_releaseAll (fun _ => rfl) rfl rfl

/-- With refresh off, the releases hand the bus back (R305). -/
theorem releaseAll_handsBack {s t : State} (hs : s.refreshEnabled = false) (h : seq releaseAll s = .ok t) :
    HandedBack t := by
  refine ⟨?_, ?_, ?_, ?_⟩
  · exact Keeps.seq disarmed_gapKeeps (fun p hp => (pickAllowed_bcShutdown_releaseAll p hp).keeps_disarmed) s hs t h
  · refine seq_establishes (p := release .test) releasesBeforeTest releasesAfterTest ungranted_gapKeeps
      release_test_ungrants (fun q hq => ?_) h
    have hq : q ∈ releaseAll := releaseAll_eq ▸ List.mem_append_right _ (List.mem_cons_of_mem _ hq)
    exact (pickAllowed_bcShutdown_releaseAll q hq).keeps_ungranted (by decide)
  · exact seq_establishes (p := act .abSetReadable) (allSignals.map release) [act .dbSetReadable]
      abReadable_gapKeeps (fun _ => rfl) (by simpa using act_keeps_abReadable (by simp)) h
  · exact seq_establishes (p := act .dbSetReadable) (allSignals.map release ++ [act .abSetReadable]) []
      dbReadable_gapKeeps (fun _ => rfl) (by simp) h

theorem exec_bcTestoff_handsBack {s t : State} (hm : s.mutable = true) (h : exec .bcTestoff s = .next t) :
    HandedBack t := by
  obtain ⟨u, hu, rfl⟩ := command_next_iff.1 h
  obtain ⟨hr, hg, ha, hd⟩ := testoffBody_handsBack (s := s.idle) hm hu
  exact ⟨hr, hg, ha, hd⟩

/-- BC.TESTOFF while Immutable only warns (R193). -/
theorem exec_bcTestoff_of_immutable {s t : State} (hm : s.mutable = false) (h : exec .bcTestoff s = .next t) :
    t.bare = s.bare := by
  refine bare_of_logStep (k := .wrnRedundant) ?_
  rw [← h]
  simp only [exec, execBcTestoff, command, testoffBody_of_immutable (s := s.idle) hm]

/-- BC.INIT while Mutable only logs (R305). -/
theorem exec_bcInit_of_mutable {rc : Bool} {s t : State} (hm : s.mutable = true) (h : exec (.bcInit rc) s = .next t) :
    t.bare = s.bare := by
  have hm' : s.idle.mutable = true := hm
  refine bare_of_logStep (k := .errContract) ?_
  rw [← h]
  simp only [exec, execBcInit, command, hm', if_true]

theorem exec_bcShutdown_handsBack {s t : State} (hr : s.refreshEnabled = true → s.mutable = true)
    (h : exec .bcShutdown s = .next t) : HandedBack t := by
  unfold exec execBcShutdown at h
  obtain ⟨u, hu, rfl⟩ := command_next_iff.1 h
  obtain ⟨v, hv, hu⟩ := bind_ok_iff.1 hu
  have hoff : v.refreshEnabled = false := by
    split at hv
    · next hm => exact (testoffBody_handsBack hm hv).disarmed
    · next hm =>
      cases hv
      exact Bool.eq_false_iff.2 fun he => hm (hr he)
  obtain ⟨hr, hg, ha, hd⟩ := releaseAll_handsBack hoff hu
  exact ⟨hr, hg, ha, hd⟩

/-! ### The invariant -/

/-- The part of the invariant that is about refresh and mastership (R33, R35, R37). -/
structure MastershipInv (s : State) : Prop where
  refreshMutable : s.refreshEnabled = true → s.mutable = true
  refreshConfigured : s.refreshEnabled = true → s.refreshConfigured = true
  grantTest : s.busGranted = true → s.asserted .test = true
  grantMutable : s.busGranted = true → s.mutable = true
  immutableReadable : s.mutable = false → s.ab.writable = false ∧ s.db.writable = false

theorem Inv.mastership {s : State} (h : Inv s) : MastershipInv s :=
  ⟨h.refreshMutable, h.refreshConfigured, h.grantTest, h.grantMutable, h.immutableReadable⟩

theorem mastershipInv_ofCells : OfCells MastershipInv := fun _ =>
  ⟨fun ⟨h1, h2, h3, h4, h5⟩ => ⟨h1, h2, h3, h4, h5⟩, fun ⟨h1, h2, h3, h4, h5⟩ => ⟨h1, h2, h3, h4, h5⟩⟩

theorem HandedBack.mastership {s : State} (h : HandedBack s) : MastershipInv s where
  refreshMutable he := absurd (h.disarmed.symm.trans he) (by simp)
  refreshConfigured he := absurd (h.disarmed.symm.trans he) (by simp)
  grantTest hg := absurd (h.ungranted.symm.trans hg) (by simp)
  grantMutable hg := absurd (h.ungranted.symm.trans hg) (by simp)
  immutableReadable _ := ⟨h.abReadable, h.dbReadable⟩

/-- Refresh is armed only where R35 and R39 let it. -/
theorem exec_arms {i : Instr} {s t : State} (h : exec i s = .next t) (ht : t.refreshEnabled = true) :
    s.refreshEnabled = true ∨ t.mutable = true ∧ t.refreshConfigured = true := by
  obtain ⟨u, hu, rfl⟩ := exec_completes i s t h
  cases hu with
  | plain hv =>
    by_contra hs
    have hoff : s.idle.refreshEnabled = false := by simpa using fun he => hs (.inl he)
    obtain ⟨he, -⟩ := hv.leaves_of_disarmed (fun _ => ()) (fun _ => rfl) (fun _ _ _ => rfl) hoff
    exact absurd (he.symm.trans ht) (by simp)
  | armed _ _ hm hr _ => exact .inr ⟨hm, hr⟩

theorem exec_bcTeston_mastership {s t : State} (hs : MastershipInv s) (h : exec .bcTeston s = .next t) :
    MastershipInv t := by
  cases hm : s.mutable with
  | true => exact mastershipInv_ofCells.of_bare_eq (exec_bcTeston_of_mutable hm h) hs
  | false =>
    obtain ⟨hmut, htest, -⟩ := exec_bcTeston_ok h hm
    refine ⟨fun _ => hmut, fun he => ?_, fun _ => htest, fun _ => hmut,
      fun hf => absurd (hmut.symm.trans hf) (by simp)⟩
    rcases exec_arms h he with he | ⟨-, hr⟩
    · exact absurd (hm.symm.trans (hs.refreshMutable he)) (by simp)
    · exact hr

/-- A command that completes leaves the foreground agent at rest. -/
theorem exec_idle {i : Instr} {s t : State} (h : exec i s = .next t) : t.position = 0 ∧ t.intAckDrive = false := by
  obtain ⟨u, -, rfl⟩ := exec_completes i s t h
  exact ⟨rfl, rfl⟩

/-- A command that leaves `mutable` leaves both wrappers readable while Immutable: a wrapper made writable there is a
hazard. -/
theorem exec_immutableReadable {i : Instr} {s t : State} (hs : Inv s) (h : exec i s = .next t)
    (hm : t.mutable = s.mutable) (hg : s.busGranted = false → t.busGranted = false) (ht : t.mutable = false) :
    t.ab.writable = false ∧ t.db.writable = false := by
  have hsm : s.mutable = false := hm.symm.trans ht
  obtain ⟨ha, hd⟩ := hs.immutableReadable hsm
  by_cases hra : ∃ v, i = .spAdir v
  · obtain ⟨v, rfl⟩ := hra
    exact ⟨(exec_abWritable h rfl).trans ha, (exec_dbWritable h rfl).trans hd⟩
  by_cases hrd : ∃ v, i = .spDdir v
  · obtain ⟨v, rfl⟩ := hrd
    exact ⟨(exec_abWritable h rfl).trans ha, (exec_dbWritable h rfl).trans hd⟩
  have hdriven : WritableDriven t := exec_writableDriven (fun v hv => hra ⟨v, hv⟩) (fun v hv => hrd ⟨v, hv⟩) h
    ⟨fun hw => absurd (ha.symm.trans hw) (by simp), fun hw => absurd (hd.symm.trans hw) (by simp)⟩
  have hsg : s.busGranted = false := Bool.eq_false_iff.2 fun hb => by simp [hs.grantMutable hb] at hsm
  exact hdriven.readable (hg hsg) (exec_idle h).2
    (exec_quiet h (quiet_of_noAckDrive hs.idleDrive hs.noContention))

/-- A command that neither takes the bus nor gives it back. -/
theorem exec_mastership_of_left {i : Instr} {s t : State} (hs : Inv s) (h : exec i s = .next t) (h1 : i ≠ .bcTeston)
    (h2 : i ≠ .bcTestoff) (h3 : i ≠ .bcShutdown) : MastershipInv t := by
  have hm : t.mutable = s.mutable := exec_mutable h h1 h2 h3
  have hg : t.busGranted = true → s.busGranted = true := fun ht => by
    by_contra hb
    exact absurd ((exec_ungranted h1 h (by simpa using hb)).symm.trans ht) (by simp)
  refine ⟨fun he => ?_, fun he => ?_, fun ht => ?_, fun ht => hm.trans (hs.grantMutable (hg ht)),
    exec_immutableReadable hs h hm (exec_ungranted h1 h)⟩
  · rcases exec_arms h he with he | ⟨hmut, -⟩
    · exact hm.trans (hs.refreshMutable he)
    · exact hmut
  · rcases exec_arms h he with he | ⟨-, hr⟩
    · by_cases hi : ∃ rc, i = .bcInit rc
      · obtain ⟨rc, rfl⟩ := hi
        have : t.bare.refreshConfigured = true := by
          rw [exec_bcInit_of_mutable (hs.refreshMutable he) h]
          exact hs.refreshConfigured he
        exact this
      · exact (exec_refreshConfigured h fun rc hrc => hi ⟨rc, hrc⟩).trans (hs.refreshConfigured he)
    · exact hr
  · have htest := exec_asserted_or_ungranted h1 h (.inl (hs.grantTest (hg ht)))
    exact htest.resolve_right fun hb => absurd (hb.symm.trans ht) (by simp)

theorem exec_mastership {i : Instr} {s t : State} (hs : Inv s) (h : exec i s = .next t) : MastershipInv t := by
  by_cases h1 : i = .bcTeston
  · exact exec_bcTeston_mastership hs.mastership (h1 ▸ h)
  by_cases h2 : i = .bcTestoff
  · subst h2
    cases hm : s.mutable with
    | true => exact (exec_bcTestoff_handsBack hm h).mastership
    | false => exact mastershipInv_ofCells.of_bare_eq (exec_bcTestoff_of_immutable hm h) hs.mastership
  by_cases h3 : i = .bcShutdown
  · exact (exec_bcShutdown_handsBack hs.refreshMutable (h3 ▸ h)).mastership
  exact exec_mastership_of_left hs h h1 h2 h3

/-- Every command that completes keeps the invariant. -/
theorem exec_keeps_inv {i : Instr} {s t : State} (hs : Inv s) (h : exec i s = .next t) : Inv t := by
  obtain ⟨h1, h2, h3, h4, h5⟩ := exec_mastership hs h
  exact
    { idlePosition := (exec_idle h).1
      idleDrive := (exec_idle h).2
      unmasked := exec_unmasked h hs.unmasked
      noFault := (exec_fault h).trans hs.noFault
      noContention := exec_quiet h (quiet_of_noAckDrive hs.idleDrive hs.noContention)
      refreshMutable := h1
      refreshConfigured := h2
      inputOnlyIn := inputOnlyIn_iff.1 (exec_inputOnlyIn h (inputOnlyIn_iff.2 hs.inputOnlyIn))
      grantTest := h3
      grantMutable := h4
      immutableReadable := h5
      memoryWf := exec_memoryWf h hs.memoryWf }

/-- Refresh ticks keep the invariant. -/
theorem TicksOnly.inv {s t : State} (h : TicksOnly s t) (hs : Inv s) : Inv t where
  idlePosition := h.position.trans hs.idlePosition
  idleDrive := h.intAckDrive.trans hs.idleDrive
  unmasked := h.masked.trans hs.unmasked
  noFault := h.fault.trans hs.noFault
  noContention := h.contention.trans hs.noContention
  refreshMutable := by rw [h.refreshEnabled, h.mutable]; exact hs.refreshMutable
  refreshConfigured := by rw [h.refreshEnabled, h.refreshConfigured]; exact hs.refreshConfigured
  inputOnlyIn := ⟨(h.line_dir .sysRes).trans hs.inputOnlyIn.1, (h.line_dir .intAck).trans hs.inputOnlyIn.2⟩
  grantTest := by rw [h.busGranted, h.asserted_eq (by decide)]; exact hs.grantTest
  grantMutable := by rw [h.busGranted, h.mutable]; exact hs.grantMutable
  immutableReadable := by rw [h.mutable, h.abWritable, h.db]; exact hs.immutableReadable
  memoryWf := by rw [h.memory]; exact hs.memoryWf

/-- Accepting a delivery keeps the invariant, which says nothing of the command port. -/
theorem Inv.accept {s : State} (d : Delivery) (hs : Inv s) : Inv (s.accept d) := by
  obtain ⟨h1, h2, h3, h4, h5, h6, h7, h8, h9, h10, h11, h12⟩ := hs
  exact ⟨h1, h2, h3, h4, h5, h6, h7, h8, h9, h10, h11, h12⟩

/-- What a step that completes is: the ticks of a boundary, and then nothing or the delivered command. -/
theorem step_next_cases {s t : State} (h : step s = .next t) :
    ∃ u, boundary s = .ok u ∧ (t = u ∨ ∃ d i, exec i (u.accept d) = .next t) := by
  unfold step at h
  split at h
  · cases h
  · split at h
    · cases h
    · next u hu =>
      refine ⟨u, hu, ?_⟩
      split at h
      · cases h
        exact .inl rfl
      · next d _ _ =>
        split at h
        · cases h
        · next i _ => exact .inr ⟨d, i, h⟩

/-- Settles O11: ticks, the acceptance of a delivery and every command keep the invariant. -/
theorem stepKeepsInv : Obligations.StepKeepsInv := by
  intro s t hs h
  obtain ⟨u, hb, ht⟩ := step_next_cases h
  have hu : Inv u := (boundary_ok hb).inv hs
  rcases ht with rfl | ⟨d, i, hi⟩
  · exact hu
  · exact exec_keeps_inv (hu.accept d) hi

/-! ### Reset and the end of a run -/

/-- Settles O12. The safety predicate reads the directions and the masks, which reset fixes, and no latch. -/
theorem resetMeetsInv : Obligations.ResetMeetsInv := by
  intro p
  exact
    { idlePosition := rfl
      idleDrive := rfl
      unmasked := rfl
      noFault := rfl
      noContention := (contention_of_not_granted rfl rfl).2 ⟨rfl, rfl, rfl⟩
      refreshMutable := fun h => absurd h Bool.false_ne_true
      refreshConfigured := fun h => absurd h Bool.false_ne_true
      inputOnlyIn := ⟨rfl, rfl⟩
      grantTest := fun h => absurd h Bool.false_ne_true
      grantMutable := fun h => absurd h Bool.false_ne_true
      immutableReadable := fun _ => ⟨rfl, rfl⟩
      memoryWf := reset_memory_wf }

/-- Settles O13. -/
theorem resetValues : Obligations.ResetValues := by
  refine ⟨fun n => ?_, rfl, rfl, rfl, rfl, rfl, rfl, rfl, rfl, rfl, rfl, rfl, rfl, rfl⟩
  cases n <;> rfl

theorem finalState_faultOf (k : FaultKind) (s : State) : finalState (faultOf k s) = s := by cases k <;> rfl

theorem kindOf_faultOf (k : FaultKind) (s : State) : kindOf (faultOf k s) = k := by cases k <;> rfl

/-- Settles O9. -/
theorem noStepAfterFault : Obligations.NoStepAfterFault := by
  intro s k hk
  exact ⟨faultOf k s, by simp only [step, hk], finalState_faultOf k s, kindOf_faultOf k s⟩

end Sys2Proof.Machine


/-! ## Memory cycles on a held bus

A cycle is two micro-steps, each after a boundary, that open its critical section, and then micro-steps with no tick
between them (43_bus_cycles.md R225). `Does` says what a stretch of a run comes to, ticks included; `ran` is a stretch
without ticks, as an equation; `MidCycle` is the reason that nothing faults inside the section. -/

namespace Sys2Proof.Machine
open Sys2Proof.Claims

/-! ### A stretch of a run -/

/-- `t` is `s` after the micro-steps `ms` in order, and after refresh ticks where those may run: the cells up to what
ticks write, and the channels, on which a tick of a `Mutable` machine shows nothing. -/
structure Does (s t : State) (ms : List MicroStep) : Prop where
  cells : t.bare.sansTicks = (ms.foldl MicroStep.apply s).bare.sansTicks
  foregroundSteps : t.foregroundSteps = s.foregroundSteps ++ ms
  responses : t.responses = s.responses ++ ms.filterMap responseOf
  logs : t.logs = s.logs ++ ms.filterMap logOf

/-- What a micro-step makes of the cells does not depend on what ticks write. -/
theorem sansTicks_apply (m : MicroStep) (s : State) :
    (m.apply s).bare.sansTicks = (m.apply s.bare.sansTicks).bare.sansTicks := by
  cases m with
  | setDir n d | write n l | driveOut n l =>
    cases n <;> simp [MicroStep.apply, State.sansTicks, State.bare, State.setLine, Signals.set, State.line, Signals.get,
      BitVec.and_assoc]
  | memWrite a d =>
    simp only [MicroStep.apply, State.sansTicks, State.bare, BitVec.and_assoc, BitVec.and_self]
    rfl
  | _ => simp [MicroStep.apply, State.sansTicks, State.bare, BitVec.and_assoc]

theorem sansTicks_foldl_apply (ms : List MicroStep) {s t : State} (h : s.bare.sansTicks = t.bare.sansTicks) :
    (ms.foldl MicroStep.apply s).bare.sansTicks = (ms.foldl MicroStep.apply t).bare.sansTicks := by
  induction ms generalizing s t with
  | nil => exact h
  | cons m ms ih => exact ih (by rw [sansTicks_apply m s, h, ← sansTicks_apply])

theorem foldl_apply_params (ms : List MicroStep) (s : State) : (ms.foldl MicroStep.apply s).params = s.params := by
  induction ms generalizing s with
  | nil => rfl
  | cons m ms ih => exact (ih _).trans (m.apply_params s)

theorem Does.trans {s t u : State} {ms ns : List MicroStep} (h : Does s t ms) (g : Does t u ns) :
    Does s u (ms ++ ns) where
  cells := by rw [g.cells, List.foldl_append]; exact sansTicks_foldl_apply ns h.cells
  foregroundSteps := by rw [g.foregroundSteps, h.foregroundSteps, List.append_assoc]
  responses := by rw [g.responses, h.responses, List.filterMap_append, List.append_assoc]
  logs := by rw [g.logs, h.logs, List.filterMap_append, List.append_assoc]

theorem Does.refl (s : State) : Does s s [] where
  cells := rfl
  foregroundSteps := (List.append_nil _).symm
  responses := (List.append_nil _).symm
  logs := (List.append_nil _).symm

theorem Does.busCycles {s t : State} {ms : List MicroStep} (h : Does s t ms) :
    t.busCycles = s.busCycles ++ ms.filter isBusCycle := by
  simp only [State.busCycles, h.foregroundSteps, List.filter_append]

theorem does_performed (k : Nat) (ack : Bool) (m : MicroStep) (s : State) : Does s (s.performed k ack m) [m] where
  cells := congrArg State.sansTicks (State.bare_performed k ack m s)
  foregroundSteps := by simp [State.foregroundSteps]
  responses := by simp [State.responses, List.filterMap_cons]
  logs := by simp [State.logs, List.filterMap_cons]

theorem does_targetTakesByte (s : State) :
    Does s (targetTakesByte s) [.memWrite (s.abLines 0) (s.dbLines 1)] where
  cells := congrArg State.sansTicks (State.bare_targetTakesByte s)
  foregroundSteps := by simp [State.foregroundSteps, targetTakesByte]
  responses := by simp [State.responses, targetTakesByte, responseOf]
  logs := by simp [State.logs, targetTakesByte, logOf]

theorem does_tick {s t : State} (hm : s.mutable = true) (h : tick s = .ok t) : Does s t [] := by
  obtain ⟨hs, hrow, -⟩ := tick_ok h
  rcases tick_ok_cases h with rfl | rfl
  · -- an Immutable machine's tick, which leaves the row
    exact absurd (hrow hm) (by simp)
  · exact
      { cells := congrArg State.bare hs.same
        foregroundSteps := by simp [State.foregroundSteps, ticked]
        responses := by simp [State.responses, ticked, responseOf]
        logs := by simp [State.logs, ticked, logOf] }

theorem does_runTicks {n : Nat} {s t : State} (hm : s.mutable = true) (h : runTicks n s = .ok t) : Does s t [] := by
  induction n generalizing s with
  | zero => cases h; exact .refl _
  | succ n ih =>
    obtain ⟨u, hu, h⟩ := bind_ok_iff.1 h
    exact (does_tick hm hu).trans (ih ((tick_ok hu).1.mutable.trans hm) h)

theorem does_boundary {s t : State} (hm : s.mutable = true) (h : boundary s = .ok t) : Does s t [] := by
  unfold boundary at h
  split at h
  · have g := does_runTicks (s := s.skip 1) hm h
    exact ⟨g.cells, g.foregroundSteps, g.responses, g.logs⟩
  · cases h; exact .refl _

theorem does_gap {s t : State} (hm : s.mutable = true) (h : gap s = .ok t) : Does s t [] := by
  unfold gap at h
  split at h
  · cases h; exact .refl _
  · exact does_boundary hm h

theorem Does.params {s t : State} {ms : List MicroStep} (h : Does s t ms) : t.params = s.params :=
  (congrArg State.params h.cells).trans (foldl_apply_params ms s)

theorem Does.memory {s t : State} {ms : List MicroStep} (h : Does s t ms) :
    t.memory = (ms.foldl MicroStep.apply s).memory := by
  have e := congrArg State.memory h.cells; exact e

/-- The foreground's position plays no part. -/
theorem Does.idle {s t : State} {ms : List MicroStep} (h : Does s.idle t ms) : Does s t.idle ms where
  cells := h.cells.trans (sansTicks_foldl_apply ms rfl)
  foregroundSteps := h.foregroundSteps
  responses := h.responses
  logs := h.logs

/-! ### Micro-steps with no tick between them -/

/-- The state after the picks in order, where no tick runs between them and no micro-step faults. -/
def ran : List Pick → State → State
  | [], s => s
  | p :: ps, s => ran ps (s.performed (p s).1 false (p s).2)

/-- The micro-steps picked on the way. -/
def picked : List Pick → State → List MicroStep
  | [], _ => []
  | p :: ps, s => (p s).2 :: picked ps (s.performed (p s).1 false (p s).2)

theorem does_ran (ps : List Pick) (s : State) : Does s (ran ps s) (picked ps s) := by
  induction ps generalizing s with
  | nil => exact .refl s
  | cons p ps ih => exact (does_performed _ _ _ s).trans (ih _)

theorem ran_append (ps qs : List Pick) (s : State) : ran (ps ++ qs) s = ran qs (ran ps s) := by
  induction ps generalizing s with
  | nil => rfl
  | cons p ps ih => exact ih _

theorem bare_apply (m : MicroStep) (s : State) : (m.apply s).bare = (m.apply s.bare).bare := by cases m <;> rfl

theorem bare_foldl_apply (ms : List MicroStep) {s t : State} (h : s.bare = t.bare) :
    (ms.foldl MicroStep.apply s).bare = (ms.foldl MicroStep.apply t).bare := by
  induction ms generalizing s t with
  | nil => exact h
  | cons m ms ih => exact ih (by rw [bare_apply m s, h, ← bare_apply])

/-- The cells after the picks are what the micro-steps picked make of them. -/
theorem bare_ran (ps : List Pick) (s : State) :
    (ran ps s).bare = ((picked ps s).foldl MicroStep.apply s).bare := by
  induction ps generalizing s with
  | nil => rfl
  | cons p ps ih => exact (ih _).trans (bare_foldl_apply _ (State.bare_performed _ _ _ s))

/-- The micro-step writes a signal cell. -/
def writesLine : MicroStep → Bool
  | .setDir _ _ | .write _ _ | .driveOut _ _ => true
  | _ => false

/-- The signal cells are what the writes of signal cells make of them. -/
theorem signals_foldl_apply (ms : List MicroStep) {s t : State} (h : s.signals = t.signals) :
    (ms.foldl MicroStep.apply s).signals = ((ms.filter writesLine).foldl MicroStep.apply t).signals := by
  induction ms generalizing s t with
  | nil => exact h
  | cons m ms ih =>
    cases m with
    | setDir n d | write n l | driveOut n l => exact ih (by simp [MicroStep.apply, State.line, h])
    | _ => exact ih h

theorem granted_foldl_apply {ms : List MicroStep} (hms : ms.all sparesTest = true) {s : State} (hs : Granted s) :
    Granted (ms.foldl MicroStep.apply s) := by
  induction ms generalizing s with
  | nil => exact hs
  | cons m ms ih =>
    obtain ⟨hm, hms⟩ := Bool.and_eq_true_iff.1 hms
    exact ih hms (apply_granted hm hs)

/-! ### What the lines show (10_state.md R29) -/

theorem Bus.lines_driven {n : Nat} {b : Bus n} (h : b.mask = BitVec.allOnes n) (env : BitVec n) :
    b.lines env = b.latch := by simp [Bus.lines, h]

theorem Bus.lines_undriven {n : Nat} {b : Bus n} (h : b.mask = 0) (env : BitVec n) : b.lines env = env := by
  simp [Bus.lines, h]

theorem abLines_of_driven {s : State} (h : s.ab.mask = 0xFFFF) (k : Nat) : s.abLines k = s.ab.latch :=
  Bus.lines_driven h _

theorem dbLines_of_driven {s : State} (h : s.db.mask = 0xFF) (k : Nat) : s.dbLines k = s.db.latch :=
  Bus.lines_driven h _

/-- A known byte of RAM is what the data lines show (20_memory.md R66). -/
theorem targetByte_of_holds {s : State} {a : Addr} {b : Byte} (h : Holds s a b) (k : Nat) : s.targetByte a k = b := by
  obtain ⟨hr, hb⟩ := h
  simp [State.targetByte, hr, hb]

/-! ### The inside of a cycle (43_bus_cycles.md R225) -/

/-- A cycle that strobes RD or IN reads. -/
def strobesRead (lines : List Signal) : Bool := lines.contains .rd || lines.contains .ioIn

/-- Inside the critical section of a cycle that strobes `lines`: no tick can run, and neither a micro-step on those
lines nor, in a write cycle, one on the data bus can fault. -/
structure MidCycle (lines : List Signal) (s : State) : Prop where
  masked : s.masked = true
  granted : s.busGranted = true
  outputs : ∀ n ∈ lines, (s.line n).dir = .output
  undriven : strobesRead lines = true → s.db.mask = 0
  unread : strobesRead lines = false → s.asserted .rd = false ∧ s.asserted .ioIn = false

/-- The micro-steps of a cycle that strobes `lines`, with what the target takes, up to the one that clears the mask. -/
def cycleStep (lines : List Signal) : MicroStep → Bool
  | .write n _ => lines.contains n && n != .test
  | .dbSetWritable | .dbSetReadable => !strobesRead lines
  | .setMasked b => b
  | .abLatch _ | .dbLatch _ | .hold _ _ | .sampleMem _ _ | .sampleIo _ _ | .memWrite _ _ | .ioWrite _ _ | .log _
  | .redundant _ => true
  | _ => false

theorem MidCycle.contention {lines : List Signal} {s : State} (h : MidCycle lines s) : s.contention = false := by
  cases hr : strobesRead lines with
  | true => exact no_contention_of_granted h.granted (h.undriven hr)
  | false =>
    obtain ⟨hrd, hin⟩ := h.unread hr
    exact no_contention_of_no_read h.granted hrd hin

theorem MidCycle.gap {lines : List Signal} {s : State} (h : MidCycle lines s) : gap s = .ok s :=
  gap_of_disabled (by simp [State.tickEnabled, h.masked])

theorem MidCycle.unprevented {lines : List Signal} {s : State} (h : MidCycle lines s) {m : MicroStep}
    (hm : cycleStep lines m = true) : m.prevented s = none := by
  cases m with
  | write n l =>
    obtain ⟨hn, -⟩ : n ∈ lines ∧ n ≠ .test := by simpa [cycleStep] using hm
    simp [MicroStep.prevented, h.outputs n hn]
  | setDir => cases hm
  | _ => rfl

theorem midCycle_ofCells (lines : List Signal) : OfCells (MidCycle lines) := fun _ =>
  ⟨fun ⟨hm, hg, ho, hd, hr⟩ => ⟨hm, hg, ho, hd, hr⟩, fun ⟨hm, hg, ho, hd, hr⟩ => ⟨hm, hg, ho, hd, hr⟩⟩

theorem setLine_midCycle {lines : List Signal} {s : State} (h : MidCycle lines s) {n : Signal} (hn : n ∈ lines)
    (ht : n ≠ .test) (l : Level) : MidCycle lines (s.setLine n { s.line n with lvl := l }) where
  masked := h.masked
  granted := by simp [ht, h.granted]
  outputs := fun k hk => by
    by_cases hkn : k = n
    · subst hkn
      rw [State.line_setLine_same]
      exact h.outputs k hk
    · rw [State.line_setLine_other _ s hkn]
      exact h.outputs k hk
  undriven := h.undriven
  unread := fun hr => by
    obtain ⟨hrd, hin⟩ := h.unread hr
    obtain ⟨nrd, nin⟩ : Signal.rd ∉ lines ∧ Signal.ioIn ∉ lines := by simpa [strobesRead] using hr
    have hne {j : Signal} (hj : j ∉ lines) : j ≠ n := by rintro rfl; exact hj hn
    rw [State.asserted_setLine_other _ s (hne nrd), State.asserted_setLine_other _ s (hne nin)]
    exact ⟨hrd, hin⟩

theorem MidCycle.apply {lines : List Signal} {s : State} (h : MidCycle lines s) {m : MicroStep}
    (hm : cycleStep lines m = true) : MidCycle lines (m.apply s) := by
  cases m with
  | write n l =>
    obtain ⟨hn, ht⟩ : n ∈ lines ∧ n ≠ .test := by simpa [cycleStep] using hm
    exact setLine_midCycle h hn ht l
  | dbSetWritable | dbSetReadable =>
    have hr : strobesRead lines = false := by simpa [cycleStep] using hm
    exact ⟨h.masked, h.granted, h.outputs, by simp [hr], h.unread⟩
  | setMasked b =>
    cases hm
    exact ⟨rfl, h.granted, h.outputs, h.undriven, h.unread⟩
  | abLatch | dbLatch | hold | sampleMem | sampleIo | memWrite | ioWrite | log | redundant =>
    obtain ⟨hmask, hgrant, hout, hundriven, hunread⟩ := h
    exact ⟨hmask, hgrant, hout, hundriven, hunread⟩
  | _ => cases hm

theorem MidCycle.performed {lines : List Signal} {s : State} (h : MidCycle lines s) {m : MicroStep}
    (hm : cycleStep lines m = true) (k : Nat) : MidCycle lines (s.performed k false m) :=
  (midCycle_ofCells lines).of_bare_eq (State.bare_performed k false m s) (h.apply hm)

theorem MidCycle.targetTakesByte {lines : List Signal} {s : State} (h : MidCycle lines s) :
    MidCycle lines (targetTakesByte s) :=
  (midCycle_ofCells lines).of_bare_eq (State.bare_targetTakesByte s) (h.apply rfl)

/-- Whatever is picked is a micro-step of the inside of the cycle. -/
def CyclePick (lines : List Signal) (p : Pick) : Prop := ∀ s, cycleStep lines (p s).2 = true

theorem seq_of_midCycle {lines : List Signal} {ps : List Pick} (hps : ∀ p ∈ ps, CyclePick lines p) {s : State}
    (h : MidCycle lines s) : seq ps s = .ok (ran ps s) ∧ MidCycle lines (ran ps s) := by
  induction ps generalizing s with
  | nil => exact ⟨rfl, h⟩
  | cons p ps ih =>
    have hp := hps p List.mem_cons_self s
    have hs := h.performed hp (p s).1
    rw [seq_cons_of_safe h.gap (h.unprevented hp) hs.contention]
    exact ih (fun q hq => hps q (List.mem_cons_of_mem _ hq)) hs

/-- The end of the critical section (R225). -/
theorem seq_closing {lines : List Signal} {ps : List Pick} (hps : ∀ p ∈ ps, CyclePick lines p) {s : State}
    (h : MidCycle lines s) :
    seq (ps ++ [act (.setMasked false)]) s = .ok (ran (ps ++ [act (.setMasked false)]) s) := by
  obtain ⟨hseq, hmid⟩ := seq_of_midCycle hps h
  rw [seq_append, hseq, ok_bind, ran_append]
  exact seq_cons_of_safe hmid.gap rfl (hmid.performed (m := .setMasked true) rfl 0).contention

section
variable {lines : List Signal}

@[simp] theorem cyclePick_act {m : MicroStep} : CyclePick lines (act m) ↔ cycleStep lines m = true :=
  ⟨fun h => h State.reset, fun h _ => h⟩

@[simp] theorem cyclePick_hold (h : Hold) : CyclePick lines (hold h) := fun _ => rfl

theorem cycleStep_ite {c : Prop} [Decidable c] {x y : Nat × MicroStep} (hx : cycleStep lines x.2 = true)
    (hy : cycleStep lines y.2 = true) : cycleStep lines (if c then x else y).2 = true := by
  split
  · exact hx
  · exact hy

@[simp] theorem cyclePick_address (a : Addr) : CyclePick lines (cycleAddress (abWraddrBody a)) :=
  fun _ => cycleStep_ite rfl (cycleStep_ite rfl rfl)

@[simp] theorem cyclePick_dbWrBody (d : Byte) : CyclePick lines (dbWrBody d) := fun _ => cycleStep_ite rfl rfl

theorem cyclePick_dbSetwBody (h : strobesRead lines = false) : CyclePick lines dbSetwBody :=
  fun _ => cycleStep_ite rfl (by simp [cycleStep, h])

theorem cyclePick_dbSetrBody (h : strobesRead lines = false) : CyclePick lines dbSetrBody :=
  fun _ => cycleStep_ite (by simp [cycleStep, h]) rfl

end

/-! ### The bus held while `Mutable` (42_mastership.md R192) -/

/-- The bus is held as it is in `e` where the cells are those of `e` up to what ticks write, and RAS rests. -/
theorem BusHeld.of_cells {e t : State} (he : BusHeld e) (h : t.bare.sansTicks = e.bare.sansTicks)
    (hr : t.signals.ras.lvl = .high) : BusHeld t := by
  have same {β : Type} (f : State → β) : f t.bare.sansTicks = f e.bare.sansTicks := congrArg f h
  exact
    { isMutable := (same State.mutable).trans he.isMutable
      granted := (same State.busGranted).trans he.granted
      abMask := (same (fun s => s.ab.mask)).trans he.abMask
      abWritable := (same (fun s => s.ab.writable)).trans he.abWritable
      dbMask := (same (fun s => s.db.mask)).trans he.dbMask
      dbReadable := (same (fun s => s.db.writable)).trans he.dbReadable
      resting := fun n hn => by
        have rest := he.resting n hn
        have hline := same (State.line · n)
        cases n with
        | ras =>
          have hdir := same (fun s => s.signals.ras.dir)
          exact congrArg₂ Line.mk (hdir.trans (congrArg Line.dir rest)) hr
        | _ => exact hline.trans rest }

theorem BusHeld.ras {s : State} (h : BusHeld s) : s.signals.ras = ⟨.output, .high⟩ := h.resting .ras (by decide)

theorem BusHeld.ticks {s t : State} (h : BusHeld s) (g : TicksOnly s t) : BusHeld t := by
  refine h.of_cells (congrArg State.bare g.same) ?_
  rcases g.rasLevel with hr | hr
  · rw [hr, h.ras]
  · exact hr

theorem busHeld_ofCells : OfCells BusHeld := fun _ =>
  ⟨fun ⟨hm, hg, ha, hw, hd, hr, hn⟩ => ⟨hm, hg, ha, hw, hd, hr, hn⟩,
    fun ⟨hm, hg, ha, hw, hd, hr, hn⟩ => ⟨hm, hg, ha, hw, hd, hr, hn⟩⟩

theorem BusHeld.contention {s : State} (h : BusHeld s) : s.contention = false :=
  no_contention_of_granted h.granted h.dbMask

/-- A micro-step that leaves the bus held, with the ticks before it. -/
theorem micro_of_busHeld {s : State} (h : BusHeld s) {m : MicroStep} (hp : ∀ v, m.prevented v = none)
    (hm : ∀ v, BusHeld v → BusHeld (m.apply v)) :
    ∃ t, micro false (act m) s = .ok t ∧ BusHeld t ∧ Does s t [m] := by
  obtain ⟨v, hv⟩ := gap_succeeds h.contention fun _ => ⟨h.isMutable, by rw [h.ras]⟩
  have held := h.ticks (gap_ok hv)
  have held' : BusHeld (v.performed 0 false m) :=
    busHeld_ofCells.of_bare_eq (State.bare_performed 0 false m v) (hm v held)
  exact ⟨v.performed 0 false m, (micro_of_gap hv).trans (perform_of_safe (hp v) held'.contention), held',
    (does_gap h.isMutable hv).trans (does_performed 0 false m v)⟩

theorem BusHeld.setMasked {s : State} (h : BusHeld s) (b : Bool) : BusHeld ((MicroStep.setMasked b).apply s) :=
  ⟨h.isMutable, h.granted, h.abMask, h.abWritable, h.dbMask, h.dbReadable, h.resting⟩

/-- A cycle's start: the passing check and the setting of the mask, with the ticks before each (R190, R225). -/
def opening : List Pick := [act .check, act (.setMasked true)]

theorem opening_of_busHeld {s : State} (h : BusHeld s) :
    ∃ u, seq opening s = .ok u ∧ BusHeld u ∧ u.masked = true ∧ Does s u [.check, .setMasked true] := by
  obtain ⟨t, ht, held, hst⟩ := micro_of_busHeld h (m := .check) (fun _ => rfl) fun _ hv => hv
  obtain ⟨u, hu, held', htu⟩ := micro_of_busHeld held (m := .setMasked true) (fun _ => rfl)
    fun _ hv => hv.setMasked true
  refine ⟨u, ?_, held', congrArg State.masked htu.cells, hst.trans htu⟩
  rw [opening, seq_cons, ht, ok_bind, seq_singleton, hu]

theorem BusHeld.midCycle {s : State} (h : BusHeld s) (hm : s.masked = true) {lines : List Signal}
    (hl : ∀ n ∈ lines, n ∈ sharedSignals) : MidCycle lines s where
  masked := hm
  granted := h.granted
  outputs := fun n hn => congrArg Line.dir (h.resting n (hl n hn))
  undriven := fun _ => h.dbMask
  unread := fun _ => by
    simp [State.asserted, h.resting .rd (by decide), h.resting .ioIn (by decide), inactiveLevel, activeLevel]

theorem BusHeld.addressStep {s : State} (h : BusHeld s) (a : Addr) : addressStep s a = .abLatch a := by
  simp [Claims.addressStep, addressOpen, h.abWritable, h.abMask]

/-- The writes of signal cells in a cycle with the strobe `n` (R220, R221). -/
def strobeWrites (n : Signal) : List MicroStep :=
  [MicroStep.write .ras .low, MicroStep.write n .low, MicroStep.write .mux .high, MicroStep.write .cas .low] ++
    strobesOff n

/-- Each strobe goes to its active level and back. -/
theorem BusHeld.foldl_strobeWrites {s : State} (h : BusHeld s) {n : Signal} (hn : n = .rd ∨ n = .wr) :
    ((strobeWrites n).foldl MicroStep.apply s).signals = s.signals := by
  have line (k : Signal) (hk : k ∈ sharedSignals) : s.signals.get k = ⟨.output, inactiveLevel k⟩ := h.resting k hk
  have hras := line .ras (by decide)
  have hcas := line .cas (by decide)
  have hmux := line .mux (by decide)
  have hrd := line .rd (by decide)
  have hwr := line .wr (by decide)
  obtain ⟨⟨⟩⟩ := s
  simp only [Signals.get] at hras hcas hmux hrd hwr
  subst hras hcas hmux hrd hwr
  rcases hn with rfl | rfl <;> rfl

/-- After the strobes of a cycle the lines rest. -/
theorem BusHeld.resting_after {s : State} (h : BusHeld s) {n : Signal} (hn : n = .rd ∨ n = .wr) {ms : List MicroStep}
    (hms : ms.filter writesLine = strobeWrites n) : ∀ k ∈ sharedSignals, Resting (ms.foldl MicroStep.apply s) k := by
  have same : (ms.foldl MicroStep.apply s).signals = s.signals := by
    rw [signals_foldl_apply ms rfl, hms, h.foldl_strobeWrites hn]
  intro k hk
  rw [Resting, State.line, same]
  exact h.resting k hk

/-! ### BC.WRMEM on a held bus (43_bus_cycles.md R221) -/

/-- From the mask to the byte's taking. -/
def writeOn (a : Addr) (d : Byte) : List Pick :=
  [dbSetwBody, cycleAddress (abWraddrBody a), dbWrBody d, assertLine .ras, hold .tW1, assertLine .wr, hold .tW2,
    assertLine .mux, hold .tW3, assertLine .cas, hold .tW4]

/-- From the byte's taking to the end. -/
def writeOff : List Pick :=
  [deassertLine .cas, deassertLine .wr, deassertLine .ras, deassertLine .mux, dbSetrBody] ++ [act (.setMasked false)]

theorem wrmemBody_of_mutable {s : State} (hm : s.mutable = true) (a : Addr) (d : Byte) :
    wrmemBody a d s =
      seq opening s >>= fun u => seq (writeOn a d) u >>= fun v => seq writeOff (targetTakesByte v) := by
  have hsplit : seq (opening ++ writeOn a d) s = seq opening s >>= seq (writeOn a d) := seq_append _ _ s
  rw [wrmemBody, if_pos hm]
  show seq (opening ++ writeOn a d) s >>= _ = _
  rw [hsplit, bind_assoc]
  rfl

/-- The lines that a memory write cycle strobes. -/
abbrev writeLines : List Signal := [.ras, .wr, .mux, .cas]

theorem cyclePick_writeOn (a : Addr) (d : Byte) : ∀ p ∈ writeOn a d, CyclePick writeLines p := by
  simp [writeOn, cyclePick_dbSetwBody, strobesRead, assertLine, requestLine, cycleStep]

theorem cyclePick_writeOff :
    ∀ p ∈ [deassertLine .cas, deassertLine .wr, deassertLine .ras, deassertLine .mux, dbSetrBody],
      CyclePick writeLines p := by
  simp [cyclePick_dbSetrBody, strobesRead, deassertLine, requestLine, cycleStep]

theorem picked_writeOn {u : State} (h : BusHeld u) (a : Addr) (d : Byte) :
    picked (writeOn a d) u =
      [MicroStep.dbSetWritable, MicroStep.abLatch a, MicroStep.dbLatch d] ++
        strobesOn u.params.timing .wr .tW1 .tW2 .tW3 .tW4 := by
  simp [picked, writeOn, dbSetwBody, cycleAddress, abWraddrBody, dbWrBody, hold, act, assertLine, requestLine,
    activeLevel, strobesOn, h.dbReadable, h.abMask, h.abWritable, MicroStep.apply]

theorem picked_writeOff {w : State} (h : w.db.writable = true) :
    picked writeOff w = strobesOff .wr ++ [MicroStep.dbSetReadable, MicroStep.setMasked false] := by
  simp [picked, writeOff, dbSetrBody, act, deassertLine, requestLine, inactiveLevel, strobesOff, h, MicroStep.apply]

/-- When the target takes the byte, the buses are driven with the address and the byte (R227). -/
theorem buses_after_writeOn {u : State} (h : BusHeld u) (a : Addr) (d : Byte) :
    (ran (writeOn a d) u).abLines 0 = a ∧ (ran (writeOn a d) u).dbLines 1 = d ∧
      (ran (writeOn a d) u).db.writable = true := by
  have cells := bare_ran (writeOn a d) u
  rw [picked_writeOn h] at cells
  have hab : (ran (writeOn a d) u).ab = { u.ab with latch := a } := congrArg State.ab cells
  have hdb : (ran (writeOn a d) u).db = ⟨d, 0xFF, true⟩ := congrArg State.db cells
  refine ⟨?_, ?_, congrArg Bus.writable hdb⟩
  · exact (abLines_of_driven ((congrArg Bus.mask hab).trans h.abMask) 0).trans (congrArg Bus.latch hab)
  · exact (dbLines_of_driven (congrArg Bus.mask hdb) 1).trans (congrArg Bus.latch hdb)

/-- The micro-steps of a write cycle on a held bus. -/
def heldWriteSteps (T : Timing) (a : Addr) (d : Byte) : List MicroStep :=
  [MicroStep.check, MicroStep.setMasked true] ++
    (([MicroStep.dbSetWritable, MicroStep.abLatch a, MicroStep.dbLatch d] ++ strobesOn T .wr .tW1 .tW2 .tW3 .tW4) ++
      ([MicroStep.memWrite a d] ++ (strobesOff .wr ++ [MicroStep.dbSetReadable, MicroStep.setMasked false])))

theorem BusHeld.writeSteps_eq {s : State} (h : BusHeld s) (a : Addr) (d : Byte) (b : Bool) :
    writeSteps s a d a d b = heldWriteSteps s.params.timing a d := by
  simp [writeSteps, heldWriteSteps, setwStep, h.dbReadable, h.addressStep]

theorem BusHeld.foldl_heldWriteSteps {s : State} (h : BusHeld s) (a : Addr) (d : Byte) :
    BusHeld ((heldWriteSteps s.params.timing a d).foldl MicroStep.apply s) :=
  ⟨h.isMutable, granted_foldl_apply rfl h.granted, h.abMask, h.abWritable, rfl, rfl, h.resting_after (.inr rfl) rfl⟩

/-- BC.WRMEM's body on a held bus: it completes, holds the bus, and the target takes the byte at the address. -/
theorem wrmemBody_of_busHeld {s : State} (h : BusHeld s) (a : Addr) (d : Byte) :
    ∃ t, wrmemBody a d s = .ok t ∧ BusHeld t ∧ Does s t (heldWriteSteps s.params.timing a d) := by
  obtain ⟨u, hu, heldu, hmask, hsu⟩ := opening_of_busHeld h
  have mid : MidCycle writeLines u := heldu.midCycle hmask (by decide)
  obtain ⟨hv, midv⟩ := seq_of_midCycle (cyclePick_writeOn a d) mid
  obtain ⟨haddr, hbyte, hwritable⟩ := buses_after_writeOn heldu a d
  have huv := does_ran (writeOn a d) u
  rw [picked_writeOn heldu] at huv
  generalize ran (writeOn a d) u = v at *
  have hvw := does_targetTakesByte v
  rw [haddr, hbyte] at hvw
  have ht := seq_closing cyclePick_writeOff midv.targetTakesByte
  have hwt := does_ran writeOff (targetTakesByte v)
  have ras := congrArg (fun s => s.signals.ras.lvl) (bare_ran writeOff (targetTakesByte v))
  rw [picked_writeOff (w := targetTakesByte v) hwritable] at hwt ras
  have hst := hsu.trans (huv.trans (hvw.trans hwt))
  rw [hsu.params] at hst
  refine ⟨ran writeOff (targetTakesByte v), ?_, (h.foldl_heldWriteSteps a d).of_cells hst.cells ras, hst⟩
  rw [wrmemBody_of_mutable h.isMutable, hu, ok_bind, hv, ok_bind, writeOff, ht]

theorem exec_bcWrmem_of_busHeld {s : State} (h : BusHeld s) (a : Addr) (d : Byte) :
    ∃ t, exec (.bcWrmem a d) s = .next t ∧ BusHeld t ∧ Does s t (writeSteps s a d a d false) := by
  obtain ⟨t, ht, held, hst⟩ := wrmemBody_of_busHeld (busHeld_ofCells.of_bare_eq (State.bare_idle s) h) a d
  refine ⟨t.idle, command_of_ok ht, busHeld_ofCells.of_bare_eq (State.bare_idle t) held, ?_⟩
  rw [h.writeSteps_eq]
  exact hst.idle

/-! ### BC.RDMEM on a held bus (43_bus_cycles.md R220) -/

/-- From the mask to the sample. -/
def readOn (a : Addr) : List Pick :=
  [cycleAddress (abWraddrBody a), assertLine .ras, hold .tR1, assertLine .rd, hold .tR2, assertLine .mux, hold .tR3,
    assertLine .cas, hold .tR4]

/-- From the sample to the end of the critical section. -/
def readOff : List Pick :=
  [deassertLine .cas, deassertLine .rd, deassertLine .ras, deassertLine .mux] ++ [act (.setMasked false)]

theorem rdmemBody_of_mutable {s : State} (hm : s.mutable = true) (a : Addr) :
    rdmemBody a s = seq opening s >>= fun u => seq (readOn a) u >>= fun v => sampleMemory v >>= fun x =>
      seq readOff x.2 >>= fun t => pure (x.1, t) := by
  have hsplit : seq (opening ++ readOn a) s = seq opening s >>= seq (readOn a) := seq_append _ _ s
  rw [rdmemBody, if_pos hm]
  show seq (opening ++ readOn a) s >>= _ = _
  rw [hsplit, bind_assoc]
  rfl

/-- The lines that a memory read cycle strobes. -/
abbrev readLines : List Signal := [.ras, .rd, .mux, .cas]

theorem cyclePick_readOn (a : Addr) : ∀ p ∈ readOn a, CyclePick readLines p := by
  simp [readOn, assertLine, requestLine, cycleStep]

theorem cyclePick_readOff : ∀ p ∈ [deassertLine .cas, deassertLine .rd, deassertLine .ras, deassertLine .mux],
    CyclePick readLines p := by
  simp [deassertLine, requestLine, cycleStep]

theorem picked_readOn {u : State} (h : BusHeld u) (a : Addr) :
    picked (readOn a) u = [MicroStep.abLatch a] ++ strobesOn u.params.timing .rd .tR1 .tR2 .tR3 .tR4 := by
  simp [picked, readOn, cycleAddress, abWraddrBody, hold, act, assertLine, requestLine, activeLevel, strobesOn, h.abMask,
    h.abWritable, MicroStep.apply]

theorem picked_readOff (w : State) : picked readOff w = strobesOff .rd ++ [MicroStep.setMasked false] := rfl

/-- At the sample the address bus is driven with the address (R227). -/
theorem abLines_after_readOn {u : State} (h : BusHeld u) (a : Addr) : (ran (readOn a) u).abLines 0 = a := by
  have cells := bare_ran (readOn a) u
  rw [picked_readOn h] at cells
  have hab : (ran (readOn a) u).ab = { u.ab with latch := a } := congrArg State.ab cells
  exact (abLines_of_driven ((congrArg Bus.mask hab).trans h.abMask) 0).trans (congrArg Bus.latch hab)

/-- The sample, inside the critical section. -/
theorem sampleMemory_of_midCycle {lines : List Signal} {v : State} (h : MidCycle lines v) :
    sampleMemory v = .ok (v.memSample, v.performed 2 false (.sampleMem (v.abLines 0) v.memSample)) := by
  have hp := perform_of_safe (k := 2) (ack := false) (m := .sampleMem (v.abLines 0) v.memSample) rfl
    (h.performed rfl 2).contention
  rw [sampleMemory, readStep_of_gap h.gap, hp]
  rfl

/-- The micro-steps of a read cycle on a held bus, without the response. -/
def heldReadSteps (T : Timing) (a : Addr) (d : Byte) : List MicroStep :=
  [MicroStep.check, MicroStep.setMasked true] ++ (([MicroStep.abLatch a] ++ strobesOn T .rd .tR1 .tR2 .tR3 .tR4) ++
    ([MicroStep.sampleMem a d] ++ (strobesOff .rd ++ [MicroStep.setMasked false])))

theorem BusHeld.readSteps_eq {s : State} (h : BusHeld s) (a : Addr) (d : Byte) :
    readSteps s a a d = heldReadSteps s.params.timing a d ++ [MicroStep.respond (.byte d)] := by
  simp [readSteps, heldReadSteps, h.addressStep]

theorem BusHeld.foldl_heldReadSteps {s : State} (h : BusHeld s) (a : Addr) (d : Byte) :
    BusHeld ((heldReadSteps s.params.timing a d).foldl MicroStep.apply s) :=
  ⟨h.isMutable, granted_foldl_apply rfl h.granted, h.abMask, h.abWritable, h.dbMask, h.dbReadable,
    h.resting_after (.inl rfl) rfl⟩

/-- BC.RDMEM's body on a held bus: it completes, holds the bus, and reads the byte of the address where it is known. -/
theorem rdmemBody_of_busHeld {s : State} (h : BusHeld s) (a : Addr) :
    ∃ d t, rdmemBody a s = .ok (d, t) ∧ BusHeld t ∧ Does s t (heldReadSteps s.params.timing a d) ∧
      ∀ b, Holds s a b → d = b := by
  obtain ⟨u, hu, heldu, hmask, hsu⟩ := opening_of_busHeld h
  have mid : MidCycle readLines u := heldu.midCycle hmask (by decide)
  obtain ⟨hv, midv⟩ := seq_of_midCycle (cyclePick_readOn a) mid
  have haddr := abLines_after_readOn heldu a
  have huv := does_ran (readOn a) u
  rw [picked_readOn heldu] at huv
  generalize ran (readOn a) u = v at *
  have hbyte : v.memSample = v.targetByte a 1 := by
    rw [State.memSample, haddr, Bus.lines_undriven (midv.undriven rfl)]
  have hsv := hsu.trans huv
  have hholds (b : Byte) (hb : Holds s a b) : v.targetByte a 1 = b := by
    have hmem : v.memory = s.memory := hsv.memory
    obtain ⟨hr, hread⟩ := hb
    exact targetByte_of_holds ⟨by rw [hsv.params, hr], by rw [hmem, hread]⟩ 1
  have hw := sampleMemory_of_midCycle midv
  have hvw := does_performed 2 false (.sampleMem (v.abLines 0) v.memSample) v
  have midw := midv.performed (m := .sampleMem (v.abLines 0) v.memSample) rfl 2
  rw [haddr, hbyte] at hw hvw midw
  generalize v.performed 2 false (.sampleMem a (v.targetByte a 1)) = w at *
  have ht := seq_closing cyclePick_readOff midw
  have ras := congrArg (fun s => s.signals.ras.lvl) (bare_ran readOff w)
  have hst := hsu.trans (huv.trans (hvw.trans (does_ran readOff w)))
  rw [hsu.params] at hst
  refine ⟨v.targetByte a 1, ran readOff w, ?_, (h.foldl_heldReadSteps a _).of_cells hst.cells ras, hst, hholds⟩
  rw [rdmemBody_of_mutable h.isMutable, hu, ok_bind, hv, ok_bind, hw, ok_bind, readOff, ht]
  rfl

theorem exec_bcRdmem_of_busHeld {s : State} (h : BusHeld s) (a : Addr) :
    ∃ d t, exec (.bcRdmem a) s = .next t ∧ BusHeld t ∧ Does s t (readSteps s a a d) ∧ ∀ b, Holds s a b → d = b := by
  obtain ⟨d, t, ht, held, hst, hd⟩ := rdmemBody_of_busHeld (busHeld_ofCells.of_bare_eq (State.bare_idle s) h) a
  obtain ⟨u, hu, held', htu⟩ := micro_of_busHeld held (m := .respond (.byte d)) (fun _ => rfl) fun _ hv => hv
  refine ⟨d, u.idle, ?_, busHeld_ofCells.of_bare_eq (State.bare_idle u) held', ?_, hd⟩
  · unfold exec execBcRdmem
    refine command_of_ok ?_
    rw [ht, ok_bind]
    exact (seq_singleton _ t).trans hu
  · rw [h.readSteps_eq]
    exact (hst.trans htu).idle

/-! ### A read cycle after a write cycle (20_memory.md R66) -/

/-- Settles O51: BC.WRMEM leaves the bus held and the byte in the target memory, ticks change neither, and BC.RDMEM on a
held bus reads a known byte. -/
theorem readSeesLastWrite : Obligations.ReadSeesLastWrite := by
  intro a d s hs hm hr
  obtain ⟨t, ht, held, hst⟩ := exec_bcWrmem_of_busHeld (hs.held hm) a d
  obtain ⟨v, u, hu, -, htu, hv⟩ := exec_bcRdmem_of_busHeld held a
  rw [(hs.held hm).writeSteps_eq] at hst
  rw [held.readSteps_eq] at htu
  have hmemt : t.memory = s.memory.write a.toNat d := hst.memory.trans (if_pos hr)
  have hmemu : u.memory = t.memory := htu.memory
  obtain rfl : v = d := hv d ⟨by rw [hst.params]; exact hr, by rw [hmemt, Memory.read_write_same]⟩
  refine ⟨t, u, ht, hu, ?_, ?_, ?_, fun x hx => ?_⟩
  · rw [htu.responses, hst.responses, List.append_assoc]; rfl
  · rw [htu.busCycles, hst.busCycles, List.append_assoc]; rfl
  · rw [hmemu, hmemt, Memory.read_write_same]
  · rw [hmemu, hmemt]
    exact Memory.read_write_other _ _ fun hxa => hx (BitVec.eq_of_toNat_eq hxa)

end Sys2Proof.Machine


/-! ## Words and their fields (30_encoding.md R91 to R106)

Each format is treated once, for any opcode: the word the encoder writes is the table's, a word written is read back,
and a word that is read is the word written from what was read. The opcode map then adds one line for each format. -/

namespace Sys2Proof
open Sys2Proof.Claims

/-! ### Fields -/

/-- A field read as a slice of the word is the field read as a number. -/
theorem toNat_extractLsb'_eq_bits (hi lo : Nat) (w : CommandWord) :
    (w.extractLsb' lo (hi + 1 - lo)).toNat = bits hi lo w := by
  rw [BitVec.extractLsb'_toNat, Nat.shiftRight_eq_div_pow, bits]

theorem extractLsb'_ne_zero_iff (hi lo : Nat) (w : CommandWord) :
    w.extractLsb' lo (hi + 1 - lo) ≠ 0 ↔ bits hi lo w ≠ 0 := by
  rw [← toNat_extractLsb'_eq_bits, Ne, ← BitVec.toNat_inj]
  rfl

theorem toNat_opcode_slice (w : CommandWord) : (w.extractLsb' 24 8).toNat = opcodeOf w :=
  toNat_extractLsb'_eq_bits 31 24 w

/-- Two fields side by side. -/
theorem toNat_append_eq_add {m n : Nat} (x : BitVec m) (y : BitVec n) :
    (x ++ y).toNat = x.toNat * 2 ^ n + y.toNat := by
  rw [BitVec.toNat_append, ← Nat.shiftLeft_add_eq_or_of_lt y.isLt, Nat.shiftLeft_eq]

@[simp] theorem dirOfBit_bit (d : Dir) : dirOfBit d.bit = d := by cases d <;> rfl
@[simp] theorem levelOfBit_bit (l : Level) : levelOfBit l.bit = l := by cases l <;> rfl
@[simp] theorem toNat_dirBit (d : Dir) : (dirBit d).toNat = d.bit := by cases d <;> rfl
@[simp] theorem toNat_levelBit (l : Level) : (levelBit l).toNat = l.bit := by cases l <;> rfl

/-- A one-bit field is the bit of the direction it stands for. -/
theorem bit_dirOfBit {v : Nat} (h : v < 2) : (dirOfBit v).bit = v := by
  interval_cases v <;> rfl

theorem bit_levelOfBit {v : Nat} (h : v < 2) : (levelOfBit v).bit = v := by
  interval_cases v <;> rfl

/-! ### The words as the format tables write them -/

theorem wordN_eq_nWord (op : Nat) : wordN op = nWord (BitVec.ofNat 8 op) := by
  apply BitVec.eq_of_toNat_eq
  simp only [wordN, nWord, toNat_append_eq_add, BitVec.toNat_ofNat]
  omega

theorem wordS1_eq_s1Word (op : Nat) (sig : BitVec 4) : wordS1 op sig = s1Word (BitVec.ofNat 8 op) sig := by
  apply BitVec.eq_of_toNat_eq
  simp only [wordS1, s1Word, toNat_append_eq_add, BitVec.toNat_ofNat]
  omega

theorem wordS2_eq_s2Word (op : Nat) (sig : BitVec 4) (v : BitVec 1) :
    wordS2 op sig v.toNat = s2Word (BitVec.ofNat 8 op) sig v := by
  apply BitVec.eq_of_toNat_eq
  simp only [wordS2, s2Word, toNat_append_eq_add, BitVec.toNat_ofNat]
  omega

theorem wordH16_eq_h16Word (op : Nat) (a : BitVec 16) : wordH16 op a = h16Word (BitVec.ofNat 8 op) a := by
  apply BitVec.eq_of_toNat_eq
  simp only [wordH16, h16Word, toNat_append_eq_add, BitVec.toNat_ofNat]
  omega

theorem wordH8_eq_h8Word (op : Nat) (v : BitVec 8) : wordH8 op v = h8Word (BitVec.ofNat 8 op) v := by
  apply BitVec.eq_of_toNat_eq
  simp only [wordH8, h8Word, toNat_append_eq_add, BitVec.toNat_ofNat]
  omega

theorem wordM_eq_mWord (op : Nat) (a : BitVec 16) (d : BitVec 8) : wordM op a d = mWord (BitVec.ofNat 8 op) d a := by
  apply BitVec.eq_of_toNat_eq
  simp only [wordM, mWord, toNat_append_eq_add, BitVec.toNat_ofNat]
  omega

theorem wordP_eq_pWord (op : Nat) (p d : BitVec 8) : wordP op p d = pWord (BitVec.ofNat 8 op) d p := by
  apply BitVec.eq_of_toNat_eq
  simp only [wordP, pWord, toNat_append_eq_add, BitVec.toNat_ofNat]
  omega

theorem wordR_eq_rWord (op : Nat) (rc : Bool) : wordR op rc = rWord (BitVec.ofNat 8 op) rc := by
  have hrc := rc.toNat_le
  apply BitVec.eq_of_toNat_eq
  simp only [wordR, rWord, toNat_append_eq_add, BitVec.toNat_ofNat, BitVec.toNat_ofBool]
  omega

theorem wordB2_eq_b2Word (len x16 : BitVec 16) : wordB2 len x16 = b2Word len x16 := by
  apply BitVec.eq_of_toNat_eq
  simp only [wordB2, b2Word, toNat_append_eq_add, BitVec.toNat_ofNat]
  omega

/-! ### A word written is read back -/

section
variable {op : Nat}

theorem decodeN_wordN (i : Instr) : decodeN (wordN op) i = .ok i := by
  apply if_pos
  simp only [bits, wordN, BitVec.toNat_ofNat]
  omega

theorem bits_sig_wordS1 (sig : BitVec 4) : bits 23 20 (wordS1 op sig) = sig.toNat := by
  simp only [bits, wordS1, BitVec.toNat_ofNat]
  omega

theorem decodeS1_wordS1 {sig : BitVec 4} (hs : sig.toNat < 12) (mk : BitVec 4 → Instr) :
    decodeS1 (wordS1 op sig) mk = .ok (mk sig) := by
  have hz : bits 19 0 (wordS1 op sig) = 0 := by
    simp only [bits, wordS1, BitVec.toNat_ofNat]
    omega
  rw [decodeS1, bits_sig_wordS1, if_neg (by omega), if_pos hz, BitVec.ofNat_toNat, BitVec.setWidth_eq]

theorem bits_sig_wordS2 (sig : BitVec 4) {v : Nat} (hv : v < 2) : bits 23 20 (wordS2 op sig v) = sig.toNat := by
  simp only [bits, wordS2, BitVec.toNat_ofNat]
  omega

theorem bits_v_wordS2 (sig : BitVec 4) {v : Nat} (hv : v < 2) : bits 16 16 (wordS2 op sig v) = v := by
  simp only [bits, wordS2, BitVec.toNat_ofNat]
  omega

theorem decodeS2_wordS2 {sig : BitVec 4} (hs : sig.toNat < 12) {v : Nat} (hv : v < 2)
    (mk : BitVec 4 → Nat → Instr) : decodeS2 (wordS2 op sig v) mk = .ok (mk sig v) := by
  have hz : bits 19 17 (wordS2 op sig v) = 0 ∧ bits 15 0 (wordS2 op sig v) = 0 := by
    simp only [bits, wordS2, BitVec.toNat_ofNat]
    omega
  rw [decodeS2, bits_sig_wordS2 sig hv, bits_v_wordS2 sig hv, if_neg (by omega), if_pos hz, BitVec.ofNat_toNat,
    BitVec.setWidth_eq]

theorem decodeH16_wordH16 (a : BitVec 16) (mk : BitVec 16 → Instr) : decodeH16 (wordH16 op a) mk = .ok (mk a) := by
  have hz : bits 23 16 (wordH16 op a) = 0 := by
    simp only [bits, wordH16, BitVec.toNat_ofNat]
    omega
  have ha : bits 15 0 (wordH16 op a) = a.toNat := by
    simp only [bits, wordH16, BitVec.toNat_ofNat]
    omega
  rw [decodeH16, if_pos hz, ha, BitVec.ofNat_toNat, BitVec.setWidth_eq]

theorem decodeH8_wordH8 (v : BitVec 8) (mk : BitVec 8 → Instr) : decodeH8 (wordH8 op v) mk = .ok (mk v) := by
  have hz : bits 23 8 (wordH8 op v) = 0 := by
    simp only [bits, wordH8, BitVec.toNat_ofNat]
    omega
  have hv : bits 7 0 (wordH8 op v) = v.toNat := by
    simp only [bits, wordH8, BitVec.toNat_ofNat]
    omega
  rw [decodeH8, if_pos hz, hv, BitVec.ofNat_toNat, BitVec.setWidth_eq]

theorem bits_low_wordM (a : BitVec 16) (d : BitVec 8) : bits 15 0 (wordM op a d) = a.toNat := by
  simp only [bits, wordM, BitVec.toNat_ofNat]
  omega

theorem bits_high_wordM (a : BitVec 16) (d : BitVec 8) : bits 23 16 (wordM op a d) = d.toNat := by
  simp only [bits, wordM, BitVec.toNat_ofNat]
  omega

theorem decodeM_wordM (a : BitVec 16) (d : BitVec 8) (mk : BitVec 16 → BitVec 8 → Instr) :
    decodeM (wordM op a d) mk = .ok (mk a d) := by
  rw [decodeM, bits_low_wordM, bits_high_wordM, BitVec.ofNat_toNat, BitVec.ofNat_toNat, BitVec.setWidth_eq,
    BitVec.setWidth_eq]

/-- Formats I and M are laid out alike (R97, R99). -/
theorem wordI_eq_wordM (code : BitVec 8) (tmo : BitVec 16) : wordI op code tmo = wordM op tmo code := rfl

theorem decodeI_eq_decodeM (w : CommandWord) (mk : BitVec 8 → BitVec 16 → Instr) :
    decodeI w mk = decodeM w fun a d => mk d a := rfl

theorem decodeP_wordP (p d : BitVec 8) (mk : BitVec 8 → BitVec 8 → Instr) :
    decodeP (wordP op p d) mk = .ok (mk p d) := by
  have hz : bits 15 8 (wordP op p d) = 0 := by
    simp only [bits, wordP, BitVec.toNat_ofNat]
    omega
  have hp : bits 7 0 (wordP op p d) = p.toNat := by
    simp only [bits, wordP, BitVec.toNat_ofNat]
    omega
  have hd : bits 23 16 (wordP op p d) = d.toNat := by
    simp only [bits, wordP, BitVec.toNat_ofNat]
    omega
  rw [decodeP, if_pos hz, hp, hd, BitVec.ofNat_toNat, BitVec.ofNat_toNat, BitVec.setWidth_eq, BitVec.setWidth_eq]

theorem decodeR_wordR (rc : Bool) (mk : Bool → Instr) : decodeR (wordR op rc) mk = .ok (mk rc) := by
  have hrc := rc.toNat_le
  have hz : bits 23 17 (wordR op rc) = 0 ∧ bits 15 0 (wordR op rc) = 0 := by
    simp only [bits, wordR, BitVec.toNat_ofNat]
    omega
  have hb : bits 16 16 (wordR op rc) = rc.toNat := by
    simp only [bits, wordR, BitVec.toNat_ofNat]
    omega
  rw [decodeR, if_pos hz, hb]
  cases rc <;> rfl

theorem bits_len_wordB2 (len x16 : BitVec 16) : bits 31 16 (wordB2 len x16) = len.toNat := by
  simp only [bits, wordB2, BitVec.toNat_ofNat]
  omega

theorem bits_x16_wordB2 (len x16 : BitVec 16) : bits 15 0 (wordB2 len x16) = x16.toNat := by
  simp only [bits, wordB2, BitVec.toNat_ofNat]
  omega

theorem decodeB_words {usesD8 usesX16 : Bool} (a : BitVec 16) {d : BitVec 8} (len : BitVec 16) {x : BitVec 16}
    (hd : usesD8 = false → d = 0) (hx : usesX16 = false → x = 0)
    (mk : BitVec 16 → BitVec 8 → BitVec 16 → BitVec 16 → Instr) :
    decodeB usesD8 usesX16 (wordM op a d) (wordB2 len x) mk = .ok (mk a d len x) := by
  have hz : ¬ ((usesD8 = false ∧ d.toNat ≠ 0) ∨ (usesX16 = false ∧ x.toNat ≠ 0)) := by
    rintro (⟨h, hn⟩ | ⟨h, hn⟩)
    · exact hn (by rw [hd h]; rfl)
    · exact hn (by rw [hx h]; rfl)
  rw [decodeB, bits_low_wordM, bits_high_wordM, bits_len_wordB2, bits_x16_wordB2, if_neg hz]
  simp only [BitVec.ofNat_toNat, BitVec.setWidth_eq]

end


/-- Settles O1: command by command, the encoder's word of the format is the table's. -/
theorem wordsFollowFormatTables : Obligations.WordsFollowFormatTables := by
  intro i
  cases i with
  | spDir sig d =>
    rw [encode, layout, ← toNat_dirBit, wordS2_eq_s2Word]
    rfl
  | spSet sig l =>
    rw [encode, layout, ← toNat_levelBit, wordS2_eq_s2Word]
    rfl
  | spGet | spGetdir => exact congrArg (·, 0) (wordS1_eq_s1Word _ _)
  | spAdir | spAout | abWraddr | bcRdmem | isRom | isUnused | isMmio | isKbd | isVideo | isSysmem | isLoexp | isHiexp =>
    exact congrArg (·, 0) (wordH16_eq_h16Word _ _)
  | spDdir | spDout | abWrioaddr | abWrref | dbWr | bcRdio => exact congrArg (·, 0) (wordH8_eq_h8Word _ _)
  | bcWrmem => exact congrArg (·, 0) (wordM_eq_mWord _ _ _)
  | bcInt => exact congrArg (·, 0) (wordM_eq_mWord _ _ _)
  | bcWrio => exact congrArg (·, 0) (wordP_eq_pWord _ _ _)
  | bcRdmemn | bcWrmemn | bcCopy | bcFill => exact Prod.ext (wordM_eq_mWord _ _ _) (wordB2_eq_b2Word _ _)
  | bcInit => exact congrArg (·, 0) (wordR_eq_rWord _ _)
  | _ => exact congrArg (·, 0) (wordN_eq_nWord _)

/-! ### An arm of the opcode map, on the words of its format

Each arm is taken for any words of its opcode before a written word comes in. -/

section
variable {op : Nat} (ho : op < 256)
include ho

theorem decode_wordN {i : Instr} (arm : ∀ w w2, opcodeOf w = op → decode w w2 = decodeN w i) (w2 : CommandWord) :
    decode (wordN op) w2 = .ok i := by
  rw [arm _ _ (opcodeOf_wordN op ho), decodeN_wordN]

theorem decode_wordS1 {mk : BitVec 4 → Instr} (arm : ∀ w w2, opcodeOf w = op → decode w w2 = decodeS1 w mk)
    {sig : BitVec 4} (hs : sig.toNat < 12) (w2 : CommandWord) : decode (wordS1 op sig) w2 = .ok (mk sig) := by
  rw [arm _ _ (opcodeOf_wordS1 op sig ho), decodeS1_wordS1 hs]

theorem decode_wordS2 {mk : BitVec 4 → Nat → Instr} (arm : ∀ w w2, opcodeOf w = op → decode w w2 = decodeS2 w mk)
    {sig : BitVec 4} (hs : sig.toNat < 12) {v : Nat} (hv : v < 2) (w2 : CommandWord) :
    decode (wordS2 op sig v) w2 = .ok (mk sig v) := by
  rw [arm _ _ (opcodeOf_wordS2 op sig v ho hv), decodeS2_wordS2 hs hv]

theorem decode_wordH16 {mk : BitVec 16 → Instr} (arm : ∀ w w2, opcodeOf w = op → decode w w2 = decodeH16 w mk)
    (a : BitVec 16) (w2 : CommandWord) : decode (wordH16 op a) w2 = .ok (mk a) := by
  rw [arm _ _ (opcodeOf_wordH16 op a ho), decodeH16_wordH16]

theorem decode_wordH8 {mk : BitVec 8 → Instr} (arm : ∀ w w2, opcodeOf w = op → decode w w2 = decodeH8 w mk)
    (v : BitVec 8) (w2 : CommandWord) : decode (wordH8 op v) w2 = .ok (mk v) := by
  rw [arm _ _ (opcodeOf_wordH8 op v ho), decodeH8_wordH8]

theorem decode_wordM {mk : BitVec 16 → BitVec 8 → Instr}
    (arm : ∀ w w2, opcodeOf w = op → decode w w2 = decodeM w mk) (a : BitVec 16) (d : BitVec 8) (w2 : CommandWord) :
    decode (wordM op a d) w2 = .ok (mk a d) := by
  rw [arm _ _ (opcodeOf_wordM op a d ho), decodeM_wordM]

theorem decode_wordI {mk : BitVec 8 → BitVec 16 → Instr}
    (arm : ∀ w w2, opcodeOf w = op → decode w w2 = decodeI w mk) (c : BitVec 8) (t : BitVec 16) (w2 : CommandWord) :
    decode (wordI op c t) w2 = .ok (mk c t) := by
  rw [arm _ _ (opcodeOf_wordI op c t ho), decodeI_eq_decodeM, wordI_eq_wordM, decodeM_wordM]

theorem decode_wordP {mk : BitVec 8 → BitVec 8 → Instr}
    (arm : ∀ w w2, opcodeOf w = op → decode w w2 = decodeP w mk) (p d : BitVec 8) (w2 : CommandWord) :
    decode (wordP op p d) w2 = .ok (mk p d) := by
  rw [arm _ _ (opcodeOf_wordP op p d ho), decodeP_wordP]

theorem decode_wordR {mk : Bool → Instr} (arm : ∀ w w2, opcodeOf w = op → decode w w2 = decodeR w mk) (rc : Bool)
    (w2 : CommandWord) : decode (wordR op rc) w2 = .ok (mk rc) := by
  rw [arm _ _ (opcodeOf_wordR op rc ho), decodeR_wordR]

theorem decode_wordsB {usesD8 usesX16 : Bool} {mk : BitVec 16 → BitVec 8 → BitVec 16 → BitVec 16 → Instr}
    (arm : ∀ w w2, opcodeOf w = op → decode w w2 = decodeB usesD8 usesX16 w w2 mk) (a : BitVec 16) {d : BitVec 8}
    (len : BitVec 16) {x : BitVec 16} (hd : usesD8 = false → d = 0) (hx : usesX16 = false → x = 0) :
    decode (wordM op a d) (wordB2 len x) = .ok (mk a d len x) := by
  rw [arm _ _ (opcodeOf_wordM op a d ho), decodeB_words a len hd hx]

end

/-- Settles O2: the first word carries the opcode, whose arm reads the operands back in the command's format. -/
theorem decodeOfEncode : Obligations.DecodeOfEncode := by
  intro i hi
  cases i with
  | spDir sig d =>
    have h := decode_wordS2 (op := 0x01) (by decide) (fun w w2 h => by rw [decode, h]; rfl) (of_decide_eq_true hi)
      (dirBit_lt d) 0
    rwa [dirOfBit_bit] at h
  | spSet sig l =>
    have h := decode_wordS2 (op := 0x02) (by decide) (fun w w2 h => by rw [decode, h]; rfl) (of_decide_eq_true hi)
      (levelBit_lt l) 0
    rwa [levelOfBit_bit] at h
  | spGet | spGetdir =>
    exact decode_wordS1 (by decide) (fun w w2 h => by rw [decode, h]; rfl) (of_decide_eq_true hi) _
  | spAdir | spAout | abWraddr | bcRdmem | isRom | isUnused | isMmio | isKbd | isVideo | isSysmem | isLoexp | isHiexp =>
    exact decode_wordH16 (by decide) (fun w w2 h => by rw [decode, h]; rfl) _ _
  | spDdir | spDout | abWrioaddr | abWrref | dbWr | bcRdio =>
    exact decode_wordH8 (by decide) (fun w w2 h => by rw [decode, h]; rfl) _ _
  | bcWrmem => exact decode_wordM (by decide) (fun w w2 h => by rw [decode, h]; rfl) _ _ _
  | bcInt => exact decode_wordI (by decide) (fun w w2 h => by rw [decode, h]; rfl) _ _ _
  | bcWrio => exact decode_wordP (by decide) (fun w w2 h => by rw [decode, h]; rfl) _ _ _
  | bcRdmemn a len =>
    exact decode_wordsB (op := 0x50) (by decide) (fun w w2 h => by rw [decode, h]; rfl) a len (fun _ => rfl)
      fun _ => rfl
  | bcWrmemn a len off =>
    exact decode_wordsB (op := 0x51) (by decide) (fun w w2 h => by rw [decode, h]; rfl) a len (fun _ => rfl) (by simp)
  | bcCopy src dst len =>
    exact decode_wordsB (op := 0x52) (by decide) (fun w w2 h => by rw [decode, h]; rfl) src len (fun _ => rfl) (by simp)
  | bcFill a len v =>
    exact decode_wordsB (op := 0x53) (by decide) (fun w w2 h => by rw [decode, h]; rfl) a len (by simp) fun _ => rfl
  | bcInit => exact decode_wordR (by decide) (fun w w2 h => by rw [decode, h]; rfl) _ _
  | _ => exact decode_wordN (by decide) (fun w w2 h => by rw [decode, h]; rfl) _

end Sys2Proof

/-! ## Decoded and refused words (30_encoding.md R104 to R106)

Of each format it is shown once, for any opcode with that format in the map, that it refuses exactly the illegal words
and that what it reads is well formed and encodes to the word it was read from. -/

namespace Sys2Proof
open Sys2Proof.Claims

/-! ### A format read -/

/-- The command `i` is well formed and its words are the ones delivered: no bit of them was dropped. -/
def ReadFrom (w w2 : CommandWord) (i : Instr) : Prop :=
  WellFormed i ∧ (encode i).1 = w ∧ (commandLength (opcodeOf w) = 2 → (encode i).2 = w2)

/-- What reading the words `w` and `w2` comes to: a refusal exactly where they are illegal, else a command they are the
words of. -/
def Reading (w w2 : CommandWord) (r : Except DecodeError Instr) : Prop :=
  ((∃ e, r = .error e) ↔ Illegal w w2) ∧ ∀ i, r = .ok i → ReadFrom w w2 i

section
variable {w w2 : CommandWord}

theorem Reading.error {e : DecodeError} (h : Illegal w w2) : Reading w w2 (.error e) :=
  ⟨⟨fun _ => h, fun _ => ⟨e, rfl⟩⟩, nofun⟩

theorem Reading.ok {i : Instr} (h : ¬ Illegal w w2) (hi : ReadFrom w w2 i) : Reading w w2 (.ok i) :=
  ⟨⟨nofun, fun g => absurd g h⟩, fun _ hj => Except.ok.inj hj ▸ hi⟩

/-- A check that a reserved field is 0. -/
theorem Reading.reserved {c : Prop} [Decidable c] {i : Instr} (hc : Illegal w w2 ↔ ¬ c)
    (hi : c → ReadFrom w w2 i) : Reading w w2 (if c then .ok i else .error .reservedField) := by
  split
  · next h => exact .ok (fun g => hc.1 g h) (hi h)
  · next h => exact .error (hc.2 h)

/-- A command of one word. -/
theorem ReadFrom.oneWord {i : Instr} {op : Nat} (hop : opcodeOf w = op) (hl : commandLength op = 1)
    (hwf : WellFormed i) (hw : (encode i).1 = w) : ReadFrom w w2 i :=
  ⟨hwf, hw, fun h => by rw [hop, hl] at h; cases h⟩

section
variable {op : Nat} (hop : opcodeOf w = op)
include hop

theorem wordN_of_fields (hz : bits 23 0 w = 0) : wordN op = w := by
  have := w.isLt
  apply BitVec.eq_of_toNat_eq
  simp only [wordN, ← hop, opcodeOf, bits, BitVec.toNat_ofNat] at hz ⊢
  omega

theorem wordS1_of_fields (hz : bits 19 0 w = 0) : wordS1 op (BitVec.ofNat 4 (bits 23 20 w)) = w := by
  have := w.isLt
  apply BitVec.eq_of_toNat_eq
  simp only [wordS1, ← hop, opcodeOf, bits, BitVec.toNat_ofNat] at hz ⊢
  omega

theorem wordS2_of_fields (hz : bits 19 17 w = 0 ∧ bits 15 0 w = 0) :
    wordS2 op (BitVec.ofNat 4 (bits 23 20 w)) (bits 16 16 w) = w := by
  have := w.isLt
  apply BitVec.eq_of_toNat_eq
  simp only [wordS2, ← hop, opcodeOf, bits, BitVec.toNat_ofNat] at hz ⊢
  omega

theorem wordH16_of_fields (hz : bits 23 16 w = 0) : wordH16 op (BitVec.ofNat 16 (bits 15 0 w)) = w := by
  have := w.isLt
  apply BitVec.eq_of_toNat_eq
  simp only [wordH16, ← hop, opcodeOf, bits, BitVec.toNat_ofNat] at hz ⊢
  omega

theorem wordH8_of_fields (hz : bits 23 8 w = 0) : wordH8 op (BitVec.ofNat 8 (bits 7 0 w)) = w := by
  have := w.isLt
  apply BitVec.eq_of_toNat_eq
  simp only [wordH8, ← hop, opcodeOf, bits, BitVec.toNat_ofNat] at hz ⊢
  omega

theorem wordM_of_fields : wordM op (BitVec.ofNat 16 (bits 15 0 w)) (BitVec.ofNat 8 (bits 23 16 w)) = w := by
  have := w.isLt
  apply BitVec.eq_of_toNat_eq
  simp only [wordM, ← hop, opcodeOf, bits, BitVec.toNat_ofNat]
  omega

theorem wordP_of_fields (hz : bits 15 8 w = 0) :
    wordP op (BitVec.ofNat 8 (bits 7 0 w)) (BitVec.ofNat 8 (bits 23 16 w)) = w := by
  have := w.isLt
  apply BitVec.eq_of_toNat_eq
  simp only [wordP, ← hop, opcodeOf, bits, BitVec.toNat_ofNat] at hz ⊢
  omega

theorem wordR_of_fields (hz : bits 23 17 w = 0 ∧ bits 15 0 w = 0) : wordR op (decide (bits 16 16 w = 1)) = w := by
  have hb : (decide (bits 16 16 w = 1)).toNat = bits 16 16 w := by
    have hlt : bits 16 16 w < 2 := Nat.mod_lt _ (by decide)
    interval_cases bits 16 16 w <;> rfl
  have := w.isLt
  apply BitVec.eq_of_toNat_eq
  rw [wordR, hb]
  simp only [← hop, opcodeOf, bits, BitVec.toNat_ofNat] at hz ⊢
  omega

end

theorem wordB2_of_fields (w2 : CommandWord) :
    wordB2 (BitVec.ofNat 16 (bits 31 16 w2)) (BitVec.ofNat 16 (bits 15 0 w2)) = w2 := by
  have := w2.isLt
  apply BitVec.eq_of_toNat_eq
  simp only [wordB2, bits, BitVec.toNat_ofNat]
  omega

theorem sig_of_field {w : CommandWord} (h : ¬ 12 ≤ bits 23 20 w) : (BitVec.ofNat 4 (bits 23 20 w)).toNat < 12 := by
  rw [BitVec.toNat_ofNat]
  omega

/-! ### What the map makes illegal, format by format -/

section
variable {op : Nat} (hop : opcodeOf w = op)
include hop

theorem illegal_unknown (hf : formatOf op = none) : Illegal w w2 := by
  simp only [Illegal, toNat_opcode_slice, hop, hf]

theorem illegal_n (hf : formatOf op = some .n) : Illegal w w2 ↔ ¬ bits 23 0 w = 0 := by
  simp only [Illegal, toNat_opcode_slice, hop, hf]
  exact extractLsb'_ne_zero_iff 23 0 w

theorem illegal_s1 (hf : formatOf op = some .s1) : Illegal w w2 ↔ 12 ≤ bits 23 20 w ∨ ¬ bits 19 0 w = 0 := by
  simp only [Illegal, toNat_opcode_slice, hop, hf]
  exact or_congr (by rw [← toNat_extractLsb'_eq_bits]) (extractLsb'_ne_zero_iff 19 0 w)

theorem illegal_s2 (hf : formatOf op = some .s2) :
    Illegal w w2 ↔ 12 ≤ bits 23 20 w ∨ ¬ (bits 19 17 w = 0 ∧ bits 15 0 w = 0) := by
  simp only [Illegal, toNat_opcode_slice, hop, hf]
  rw [not_and_or]
  exact or_congr (by rw [← toNat_extractLsb'_eq_bits])
    (or_congr (extractLsb'_ne_zero_iff 19 17 w) (extractLsb'_ne_zero_iff 15 0 w))

theorem illegal_h16 (hf : formatOf op = some .h16) : Illegal w w2 ↔ ¬ bits 23 16 w = 0 := by
  simp only [Illegal, toNat_opcode_slice, hop, hf]
  exact extractLsb'_ne_zero_iff 23 16 w

theorem illegal_h8 (hf : formatOf op = some .h8) : Illegal w w2 ↔ ¬ bits 23 8 w = 0 := by
  simp only [Illegal, toNat_opcode_slice, hop, hf]
  exact extractLsb'_ne_zero_iff 23 8 w

theorem not_illegal_m (hf : formatOf op = some .m) : ¬ Illegal w w2 := by
  simp only [Illegal, toNat_opcode_slice, hop, hf, not_false_iff]

theorem illegal_p (hf : formatOf op = some .p) : Illegal w w2 ↔ ¬ bits 15 8 w = 0 := by
  simp only [Illegal, toNat_opcode_slice, hop, hf]
  exact extractLsb'_ne_zero_iff 15 8 w

theorem not_illegal_i (hf : formatOf op = some .i) : ¬ Illegal w w2 := by
  simp only [Illegal, toNat_opcode_slice, hop, hf, not_false_iff]

theorem illegal_r (hf : formatOf op = some .r) : Illegal w w2 ↔ ¬ (bits 23 17 w = 0 ∧ bits 15 0 w = 0) := by
  simp only [Illegal, toNat_opcode_slice, hop, hf]
  rw [not_and_or]
  exact or_congr (extractLsb'_ne_zero_iff 23 17 w) (extractLsb'_ne_zero_iff 15 0 w)

theorem illegal_b {usesD8 usesX16 : Bool} (hf : formatOf op = some (.b usesD8 usesX16)) :
    Illegal w w2 ↔ (usesD8 = false ∧ bits 23 16 w ≠ 0) ∨ (usesX16 = false ∧ bits 15 0 w2 ≠ 0) := by
  simp only [Illegal, toNat_opcode_slice, hop, hf]
  exact or_congr (and_congr_right' (extractLsb'_ne_zero_iff 23 16 w))
    (and_congr_right' (extractLsb'_ne_zero_iff 15 0 w2))

/-! ### Each format, read -/

theorem decodeN_reading (hf : formatOf op = some .n) (hl : commandLength op = 1) {i : Instr}
    (hi : (encode i).1 = wordN op) (hwf : WellFormed i) : Reading w w2 (decodeN w i) :=
  .reserved (illegal_n hop hf) fun hz => .oneWord hop hl hwf (hi.trans (wordN_of_fields hop hz))

theorem decodeS1_reading (hf : formatOf op = some .s1) (hl : commandLength op = 1) {mk : BitVec 4 → Instr}
    (hi : ∀ sig, (encode (mk sig)).1 = wordS1 op sig) (hwf : ∀ sig, sig.toNat < 12 → WellFormed (mk sig)) :
    Reading w w2 (decodeS1 w mk) := by
  have hill := illegal_s1 (w2 := w2) hop hf
  unfold decodeS1
  split
  · next hs => exact .error (hill.2 (.inl hs))
  · next hs =>
    exact .reserved (hill.trans (or_iff_right hs)) fun hz =>
      .oneWord hop hl (hwf _ (sig_of_field hs)) ((hi _).trans (wordS1_of_fields hop hz))

theorem decodeS2_reading (hf : formatOf op = some .s2) (hl : commandLength op = 1) {mk : BitVec 4 → Nat → Instr}
    (hi : ∀ sig v, v < 2 → (encode (mk sig v)).1 = wordS2 op sig v)
    (hwf : ∀ sig v, sig.toNat < 12 → WellFormed (mk sig v)) : Reading w w2 (decodeS2 w mk) := by
  have hill := illegal_s2 (w2 := w2) hop hf
  unfold decodeS2
  split
  · next hs => exact .error (hill.2 (.inl hs))
  · next hs =>
    exact .reserved (hill.trans (or_iff_right hs)) fun hz =>
      .oneWord hop hl (hwf _ _ (sig_of_field hs))
        ((hi _ _ (Nat.mod_lt _ (by decide))).trans (wordS2_of_fields hop hz))

theorem decodeH16_reading (hf : formatOf op = some .h16) (hl : commandLength op = 1) {mk : BitVec 16 → Instr}
    (hi : ∀ a, (encode (mk a)).1 = wordH16 op a) (hwf : ∀ a, WellFormed (mk a)) : Reading w w2 (decodeH16 w mk) :=
  .reserved (illegal_h16 hop hf) fun hz => .oneWord hop hl (hwf _) ((hi _).trans (wordH16_of_fields hop hz))

theorem decodeH8_reading (hf : formatOf op = some .h8) (hl : commandLength op = 1) {mk : BitVec 8 → Instr}
    (hi : ∀ v, (encode (mk v)).1 = wordH8 op v) (hwf : ∀ v, WellFormed (mk v)) : Reading w w2 (decodeH8 w mk) :=
  .reserved (illegal_h8 hop hf) fun hz => .oneWord hop hl (hwf _) ((hi _).trans (wordH8_of_fields hop hz))

theorem decodeM_reading (hill : ¬ Illegal w w2) (hl : commandLength op = 1) {mk : BitVec 16 → BitVec 8 → Instr}
    (hi : ∀ a d, (encode (mk a d)).1 = wordM op a d) (hwf : ∀ a d, WellFormed (mk a d)) :
    Reading w w2 (decodeM w mk) :=
  .ok hill (.oneWord hop hl (hwf _ _) ((hi _ _).trans (wordM_of_fields hop)))

theorem decodeP_reading (hf : formatOf op = some .p) (hl : commandLength op = 1) {mk : BitVec 8 → BitVec 8 → Instr}
    (hi : ∀ p d, (encode (mk p d)).1 = wordP op p d) (hwf : ∀ p d, WellFormed (mk p d)) :
    Reading w w2 (decodeP w mk) :=
  .reserved (illegal_p hop hf) fun hz => .oneWord hop hl (hwf _ _) ((hi _ _).trans (wordP_of_fields hop hz))

theorem decodeR_reading (hf : formatOf op = some .r) (hl : commandLength op = 1) {mk : Bool → Instr}
    (hi : ∀ rc, (encode (mk rc)).1 = wordR op rc) (hwf : ∀ rc, WellFormed (mk rc)) : Reading w w2 (decodeR w mk) :=
  .reserved (illegal_r hop hf) fun hz => .oneWord hop hl (hwf _) ((hi _).trans (wordR_of_fields hop hz))

/-- The two words of format B; an operand the command has not is 0 in its word. -/
theorem decodeB_reading {usesD8 usesX16 : Bool} (hf : formatOf op = some (.b usesD8 usesX16))
    {mk : BitVec 16 → BitVec 8 → BitVec 16 → BitVec 16 → Instr}
    (hi : ∀ a d len x, (usesD8 = false → d = 0) → (usesX16 = false → x = 0) →
      encode (mk a d len x) = (wordM op a d, wordB2 len x))
    (hwf : ∀ a d len x, WellFormed (mk a d len x)) : Reading w w2 (decodeB usesD8 usesX16 w w2 mk) := by
  have hill := illegal_b (w2 := w2) hop hf
  unfold decodeB
  split
  · next hz => exact .error (hill.2 hz)
  · next hz =>
    have he := hi (BitVec.ofNat 16 (bits 15 0 w)) (BitVec.ofNat 8 (bits 23 16 w)) (BitVec.ofNat 16 (bits 31 16 w2))
      (BitVec.ofNat 16 (bits 15 0 w2))
      (fun hd => by rw [not_ne_iff.1 fun h => hz (.inl ⟨hd, h⟩)]; rfl)
      (fun hx => by rw [not_ne_iff.1 fun h => hz (.inr ⟨hx, h⟩)]; rfl)
    rw [wordM_of_fields hop, wordB2_of_fields] at he
    exact .ok (fun h => hz (hill.1 h)) ⟨hwf _ _ _ _, by rw [he], fun _ => by rw [he]⟩

end
end

/-! ### The opcode map, read (R103) -/

/-- The arms in the order of the map, those of one format together; format N, the most frequent, comes last. -/
theorem decode_reading (w w2 : CommandWord) : Reading w w2 (decode w w2) := by
  unfold decode
  split
  -- SP.DIR, SP.SET
  case h_1 hop =>
    exact decodeS2_reading hop rfl rfl (fun _ _ hv => by rw [encode, bit_dirOfBit hv]) fun _ _ => decide_eq_true
  case h_2 hop =>
    exact decodeS2_reading hop rfl rfl (fun _ _ hv => by rw [encode, bit_levelOfBit hv]) fun _ _ => decide_eq_true
  -- SP.GET, SP.GETDIR
  case h_3 hop | h_4 hop => exact decodeS1_reading hop rfl rfl (fun _ => rfl) fun _ => decide_eq_true
  -- SP.ADIR, SP.AOUT, AB.WRADDR, BC.RDMEM, IS.*
  case h_5 hop | h_6 hop | h_18 hop | h_37 hop | h_48 hop | h_49 hop | h_50 hop | h_51 hop | h_52 hop | h_53 hop
      | h_54 hop | h_55 hop =>
    exact decodeH16_reading hop rfl rfl (fun _ => rfl) fun _ => rfl
  -- SP.DDIR, SP.DOUT, AB.WRIOADDR, AB.WRREF, DB.WR, BC.RDIO
  case h_9 hop | h_10 hop | h_20 hop | h_21 hop | h_28 hop | h_39 hop =>
    exact decodeH8_reading hop rfl rfl (fun _ => rfl) fun _ => rfl
  -- BC.WRMEM, BC.WRIO
  case h_38 hop => exact decodeM_reading hop (not_illegal_m hop rfl) rfl (fun _ _ => rfl) fun _ _ => rfl
  case h_40 hop => exact decodeP_reading hop rfl rfl (fun _ _ => rfl) fun _ _ => rfl
  -- BC.RDMEMN, then BC.WRMEMN and BC.COPY, then BC.FILL
  case h_41 hop =>
    exact decodeB_reading hop rfl (fun _ _ _ _ hd hx => by rw [encode, hd rfl, hx rfl]) fun _ _ _ _ => rfl
  case h_42 hop | h_43 hop =>
    exact decodeB_reading hop rfl (fun _ _ _ _ hd _ => by rw [encode, hd rfl]) fun _ _ _ _ => rfl
  case h_44 hop =>
    exact decodeB_reading hop rfl (fun _ _ _ _ _ hx => by rw [encode, hx rfl]) fun _ _ _ _ => rfl
  -- BC.INT, BC.INIT
  case h_45 hop =>
    exact decodeM_reading (mk := fun a d => .bcInt d a) hop (not_illegal_i hop rfl) rfl (fun _ _ => rfl) fun _ _ => rfl
  case h_59 hop => exact decodeR_reading hop rfl rfl (fun _ => rfl) fun _ => rfl
  -- no opcode of the map: none of the 18 rows of the format column applies
  case h_61 =>
    refine .error (illegal_unknown rfl ?_)
    simp only [imp_false] at *
    unfold formatOf
    iterate 18 rw [if_neg]
    all_goals omega
  all_goals
    next hop => exact decodeN_reading hop rfl rfl rfl rfl

end Sys2Proof

/-! ## What a step makes of a delivery (30_encoding.md R90, R105) -/

namespace Sys2Proof.Machine
open Sys2Proof.Claims

/-- Only format B reads the second word (R106). -/
theorem decode_congr_second {w : CommandWord} (h : commandLength (opcodeOf w) = 1) (w2 w2' : CommandWord) :
    decode w w2 = decode w w2' := by
  unfold decode
  split
  case h_41 hop | h_42 hop | h_43 hop | h_44 hop =>
    rw [hop] at h
    cases h
  all_goals rfl

/-- Settles O3: what the decoder reads is well formed and has the words it was read from. -/
theorem encodeOfDecode : Obligations.EncodeOfDecode := fun w w2 => (decode_reading w w2).2

/-- Settles O5: the four opcodes of format B, and the arms that do not take the second word. -/
theorem lengthFromOpcode : Obligations.LengthFromOpcode := by
  refine fun w => ⟨?_, decode_congr_second⟩
  have hop : ∀ k : BitVec 8, w.extractLsb' 24 8 = k ↔ opcodeOf w = k.toNat := fun k => by
    rw [← toNat_opcode_slice, BitVec.toNat_inj]
  simp only [List.mem_cons, List.not_mem_nil, or_false, hop]
  rfl

/-- Settles O6: the nine words, decoded. -/
theorem exampleWordsDecode : Obligations.ExampleWordsDecode := by
  unfold Obligations.ExampleWordsDecode
  decide

section
variable {s u : State} {d : Delivery} {ds : List Delivery} (hf : s.fault = none) (hb : boundary s = .ok u)
  (hp : u.pending = d :: ds)

include hp in
theorem accept_eq_of_pending : u.accept d = { u with pending := ds, buffer := d.buffer } := by
  simp only [State.accept, hp, List.drop_one, List.tail_cons]

include hf hb hp

theorem step_of_decoded {i : Instr} (hd : d.decoded = .ok i) : step s = exec i (u.accept d) := by
  simp only [step, hf, hb, hp, hd]

theorem step_of_rejected {e : DecodeError} (hd : d.decoded = .error e) :
    step s = .fault (faultOf .illegal { u.accept d with fault := some .illegal }) := by
  simp only [step, hf, hb, hp, hd]

end

/-- Settles O7: a step with a delivery that decodes, and a boundary with no tick where refresh is off or masked. -/
theorem stepRunsDecodedCommand : Obligations.StepRunsDecodedCommand := by
  intro s u d ds i hf hb hp hd
  refine ⟨by rw [step_of_decoded hf hb hp hd, accept_eq_of_pending hp], fun hoff => ?_⟩
  have hdis : s.tickEnabled = false := by
    rcases hoff with h | h <;> simp [State.tickEnabled, h]
  rw [boundary_of_disabled hdis] at hb
  exact (Except.ok.inj hb).symm

/-! ### SIG fields that name no signal (R104) -/

theorem signalOfField_eq_none {sig : BitVec 4} (h : 12 ≤ sig.toNat) : signalOfField sig = none := by
  revert sig
  decide

theorem command_onSignal_illegal {sig : BitVec 4} (h : 12 ≤ sig.toNat)
    (body : Signal → State → Except Fault State) (s : State) :
    command (onSignal sig body) s = .fault (.illegal { s.idle with fault := some .illegal }) :=
  command_of_error (by simp only [onSignal, signalOfField_eq_none h, raise, faultOf])

/-- Settles O4: the words each format refuses, a step with a delivery that does not decode, and SIG of 12 or more. -/
theorem illegalWords : Obligations.IllegalWords := by
  refine ⟨fun w w2 => (decode_reading w w2).1, fun s u d ds hf hb hp hill => ?_, fun sig s h => ?_⟩
  · obtain ⟨e, he⟩ := (decode_reading d.word d.word2).1.2 hill
    rw [step_of_rejected hf hb hp he, accept_eq_of_pending hp]
    rfl
  · exact ⟨fun _ => command_onSignal_illegal h _ s, fun _ => command_onSignal_illegal h _ s,
      command_onSignal_illegal h _ s, command_onSignal_illegal h _ s⟩

end Sys2Proof.Machine

/-! ## Responses (30_encoding.md R109)

Ticks, and every micro-step but `respond`, leave the response channel; so a command's responses are those its body
picks: none, or one as its last micro-step. -/

namespace Sys2Proof.Machine
open Sys2Proof.Claims

/-! ### What leaves the response channel -/

/-- The response channel shows `rs`. -/
abbrev Responded (rs : List Response) (s : State) : Prop := s.responses = rs

theorem responses_performed (k : Nat) (ack : Bool) (m : MicroStep) (s : State) :
    (s.performed k ack m).responses = s.responses ++ [m].filterMap responseOf := (does_performed k ack m s).responses

theorem responses_targetTakesByte (s : State) : (targetTakesByte s).responses = s.responses := by
  rw [(does_targetTakesByte s).responses]
  exact List.append_nil _

theorem responses_deviceTakesByte (s : State) : (deviceTakesByte s).responses = s.responses := by
  simp [State.responses, deviceTakesByte, responseOf, MicroStep.apply]

theorem responses_of_tick {s t : State} (h : tick s = .ok t) : t.responses = s.responses := by
  rcases tick_ok_cases h with rfl | rfl
  · simp [State.responses, responseOf]
  · simp [State.responses, ticked, responseOf]

theorem responses_of_runTicks {n : Nat} {s t : State} (h : runTicks n s = .ok t) : t.responses = s.responses := by
  induction n generalizing s with
  | zero =>
    cases h
    rfl
  | succ n ih =>
    obtain ⟨u, hu, h⟩ := bind_ok_iff.1 h
    exact (ih h).trans (responses_of_tick hu)

theorem responses_of_gap {s t : State} (h : gap s = .ok t) : t.responses = s.responses := by
  unfold gap boundary at h
  split at h
  · cases h
    rfl
  · split at h
    · exact responses_of_runTicks (s := s.skip 1) h
    · cases h
      rfl

section
variable {rs : List Response}

theorem responded_gapKeeps : GapKeeps (Responded rs) := fun _ _ h hg => (responses_of_gap hg).trans h

/-- Whatever micro-step is picked, it is no response. -/
def PickSilent (p : Pick) : Prop := ∀ s, responseOf (p s).2 = none

theorem responded_performed {m : MicroStep} (hm : responseOf m = none) (k : Nat) (ack : Bool) {s : State}
    (hs : Responded rs s) : Responded rs (s.performed k ack m) := by
  rw [Responded, responses_performed, List.filterMap_cons_none hm]
  exact (List.append_nil _).trans hs

theorem PickSilent.keeps {p : Pick} (hp : PickSilent p) : PickKeeps (Responded rs) p :=
  fun s _ k hu _ _ => responded_performed (hp s) k false hu

theorem seq_silent {ps : List Pick} (hp : ∀ p ∈ ps, PickSilent p) (s : State) :
    Keeps (Responded rs) id s (seq ps s) :=
  Keeps.seq responded_gapKeeps (fun p hm => (hp p hm).keeps) s

theorem micro_silent {ack : Bool} {p : Pick} (hp : PickSilent p) (s : State) :
    Keeps (Responded rs) id s (micro ack p s) := by
  intro hs t ht
  obtain ⟨u, hu, -, -, rfl⟩ := micro_ok_iff.1 ht
  exact responded_performed (hp u) _ ack (responded_gapKeeps s u hs hu)

theorem seq_singleton_silent {p : Pick} (hp : PickSilent p) (s : State) :
    Keeps (Responded rs) id s (seq [p] s) := seq_silent (by simpa using hp) s

theorem readStep_silent {α : Type} {k : Nat} {m : α → MicroStep} {value : State → α}
    (hm : ∀ x, responseOf (m x) = none) (s : State) : Keeps (Responded rs) Prod.snd s (readStep k m value s) :=
  Keeps.readStep responded_gapKeeps (fun x _ k hu _ _ => responded_performed (hm x) k false hu) s

end

/-! ### The picks that do not respond -/

@[simp] theorem pickSilent_act {m : MicroStep} : PickSilent (act m) ↔ responseOf m = none :=
  ⟨fun h => h State.reset, fun h _ => h⟩

@[simp] theorem pickSilent_hold (h : Hold) : PickSilent (hold h) := fun _ => rfl
@[simp] theorem pickSilent_logStep (k : LogKind) : PickSilent (logStep k) := fun _ => rfl
@[simp] theorem pickSilent_release (n : Signal) : PickSilent (release n) := fun _ => rfl
@[simp] theorem pickSilent_driveSafe (n : Signal) : PickSilent (driveSafe n) := fun _ => rfl

theorem responseOf_ite {c : Prop} [Decidable c] {x y : Nat × MicroStep} (hx : responseOf x.2 = none)
    (hy : responseOf y.2 = none) : responseOf (if c then x else y).2 = none := by
  split
  · exact hx
  · exact hy

@[simp] theorem pickSilent_assertLine (n : Signal) : PickSilent (assertLine n) :=
  pickSilent_act.2 (by split <;> rfl)

@[simp] theorem pickSilent_deassertLine (n : Signal) : PickSilent (deassertLine n) :=
  pickSilent_act.2 (by split <;> rfl)

@[simp] theorem pickSilent_abSetrBody : PickSilent abSetrBody := fun _ => responseOf_ite rfl rfl
@[simp] theorem pickSilent_abSetwBody : PickSilent abSetwBody := fun _ => responseOf_ite rfl rfl
@[simp] theorem pickSilent_abWraddrBody (a : Addr) : PickSilent (abWraddrBody a) := fun _ => responseOf_ite rfl rfl
@[simp] theorem pickSilent_abWrioaddrBody (p : Byte) : PickSilent (abWrioaddrBody p) :=
  fun _ => responseOf_ite rfl rfl
@[simp] theorem pickSilent_dbSetrBody : PickSilent dbSetrBody := fun _ => responseOf_ite rfl rfl
@[simp] theorem pickSilent_dbSetwBody : PickSilent dbSetwBody := fun _ => responseOf_ite rfl rfl
@[simp] theorem pickSilent_dbWrBody (d : Byte) : PickSilent (dbWrBody d) := fun _ => responseOf_ite rfl rfl
@[simp] theorem pickSilent_refoffBody : PickSilent refoffBody := fun _ => responseOf_ite rfl rfl
@[simp] theorem pickSilent_refonBody : PickSilent refonBody :=
  fun _ => responseOf_ite rfl (responseOf_ite rfl (responseOf_ite rfl rfl))

theorem PickSilent.cycleAddress {p : Pick} (hp : PickSilent p) : PickSilent (cycleAddress p) :=
  fun s => responseOf_ite rfl (hp s)

@[simp] theorem pickSilent_address (a : Addr) : PickSilent (cycleAddress (abWraddrBody a)) :=
  (pickSilent_abWraddrBody a).cycleAddress

@[simp] theorem pickSilent_ioAddress (p : Byte) : PickSilent (cycleAddress (abWrioaddrBody p)) :=
  (pickSilent_abWrioaddrBody p).cycleAddress

theorem pickSilent_releaseAll : ∀ p ∈ releaseAll, PickSilent p := by
  simp [releaseAll, allSignals, responseOf]

/-! ### The bodies that do not respond -/

section
variable {rs : List Response}

theorem abStateBody_silent (s : State) : Keeps (Responded rs) Prod.snd s (abStateBody s) :=
  (readStep_silent (fun _ => rfl) s).bind fun _ => Keeps.ok (proj := Prod.snd) id

theorem dbStateBody_silent (s : State) : Keeps (Responded rs) Prod.snd s (dbStateBody s) :=
  (readStep_silent (fun _ => rfl) s).bind fun _ => Keeps.ok (proj := Prod.snd) id

theorem signalTexts_silent (ns : List Signal) (s : State) : Keeps (Responded rs) Prod.snd s (signalTexts ns s) := by
  induction ns generalizing s with
  | nil => exact Keeps.ok (proj := Prod.snd) id
  | cons n ns ih =>
    exact (readStep_silent (fun _ => rfl) s).bind fun t => (ih t.2).bind fun _ => Keeps.ok (proj := Prod.snd) id

theorem pollIntAck_silent (n : Nat) (s : State) : Keeps (Responded rs) Prod.snd s (pollIntAck n s) := by
  induction n generalizing s with
  | zero => exact Keeps.ok (proj := Prod.snd) id
  | succ n ih =>
    refine (readStep_silent (fun _ => rfl) s).bind fun t => ?_
    show Keeps _ _ t.2 (ite _ _ _)
    split
    · exact Keeps.ok (proj := Prod.snd) id
    · exact (micro_silent (pickSilent_hold .tPoll) t.2).bind ih

theorem sampleMemory_silent (s : State) : Keeps (Responded rs) Prod.snd s (sampleMemory s) :=
  (readStep_silent (fun _ => rfl) s).bind fun _ => Keeps.ok (proj := Prod.snd) id

theorem sampleIoPort_silent (s : State) : Keeps (Responded rs) Prod.snd s (sampleIoPort s) :=
  (readStep_silent (fun _ => rfl) s).bind fun _ => Keeps.ok (proj := Prod.snd) id

theorem rejectCycle_silent (s : State) : Keeps (Responded rs) id s (rejectCycle s) :=
  seq_singleton_silent (pickSilent_logStep _) s

theorem rdmemBody_silent (a : Addr) (s : State) : Keeps (Responded rs) Prod.snd s (rdmemBody a s) := by
  unfold rdmemBody
  split
  · refine (seq_silent ?_ s).bind fun t => (sampleMemory_silent t).bind fun u => (seq_silent ?_ u.2).bind
      fun _ => Keeps.ok (proj := Prod.snd) id
    all_goals simp [responseOf]
  · exact (rejectCycle_silent s).bind fun _ => Keeps.ok (proj := Prod.snd) id

theorem wrmemBody_silent (a : Addr) (d : Byte) (s : State) : Keeps (Responded rs) id s (wrmemBody a d s) := by
  unfold wrmemBody
  split
  · refine (seq_silent ?_ s).bind fun t => (seq_silent ?_ (targetTakesByte t)).after
      (responses_targetTakesByte t).trans
    all_goals simp [responseOf]
  · exact rejectCycle_silent s

theorem rdioBody_silent (p : Byte) (s : State) : Keeps (Responded rs) Prod.snd s (rdioBody p s) := by
  unfold rdioBody
  split
  · split <;> refine (seq_silent ?_ s).bind fun t => (sampleIoPort_silent t).bind fun u => (seq_silent ?_ u.2).bind
      fun _ => Keeps.ok (proj := Prod.snd) id
    all_goals simp [responseOf]
  · exact (rejectCycle_silent s).bind fun _ => Keeps.ok (proj := Prod.snd) id

theorem wrioBody_silent (p d : Byte) (s : State) : Keeps (Responded rs) id s (wrioBody p d s) := by
  unfold wrioBody
  split
  · split <;> refine (seq_silent ?_ s).bind fun t => (seq_silent ?_ (deviceTakesByte t)).after
      (responses_deviceTakesByte t).trans
    all_goals simp [responseOf]
  · exact rejectCycle_silent s

theorem readBytes_silent (a : Addr) (ks : List Nat) (s : State) :
    Keeps (Responded rs) Prod.snd s (readBytes a ks s) := by
  induction ks generalizing s with
  | nil => exact Keeps.ok (proj := Prod.snd) id
  | cons k ks ih =>
    exact (rdmemBody_silent _ s).bind fun t => (ih t.2).bind fun _ => Keeps.ok (proj := Prod.snd) id

theorem copyByte_silent (src dst : Addr) (k : Nat) (s : State) : Keeps (Responded rs) id s (copyByte src dst k s) :=
  (rdmemBody_silent _ s).bind fun t => wrmemBody_silent _ t.1 t.2

theorem testoffBody_silent (s : State) : Keeps (Responded rs) id s (testoffBody s) := by
  unfold testoffBody
  split
  · exact seq_silent (by simp [responseOf]) s
  · exact seq_singleton_silent (pickSilent_logStep _) s

theorem onSignal_silent {sig : BitVec 4} {body : Signal → State → Except Fault State}
    (hb : ∀ n s, Keeps (Responded rs) id s (body n s)) (s : State) :
    Keeps (Responded rs) id s (onSignal sig body s) := by
  unfold onSignal
  split
  · exact hb _ s
  · exact Keeps.raise

end

/-! ### What a computation adds to the response channel -/

/-- The kind of a response (R109). -/
def Response.kind : Response → ResponseKind
  | .level _ => .level
  | .dir _ => .dir
  | .bool _ => .bool
  | .byte _ => .byte
  | .row _ => .row
  | .word _ => .word
  | .bytes _ | .null => .bytesOrNull
  | .text _ => .text
  | .version _ _ _ => .version

theorem ofKind_kind (v : Response) : ofKind v.kind [v] := by
  cases v with
  | bytes bs => exact .inr ⟨bs, rfl⟩
  | null => exact .inl rfl
  | version a b c => exact ⟨a, b, c, rfl⟩
  | _ => exact ⟨_, rfl⟩

/-- Where the computation `r`, started at `s`, succeeds, it has added responses of the kind `k`, one or none. -/
def Adds (k : ResponseKind) (s : State) (r : Except Fault State) : Prop :=
  ∀ t, r = .ok t → ∃ rs, t.responses = s.responses ++ rs ∧ ofKind k rs

theorem Adds.silent {s : State} {r : Except Fault State} (h : ∀ rs, Keeps (Responded rs) id s r) :
    Adds .silent s r :=
  fun t ht => ⟨[], (h _ rfl t ht).trans (List.append_nil _).symm, rfl⟩

section
variable {k : ResponseKind}

/-- First a part that does not respond. -/
theorem Adds.after {α : Type} {p : α → State} {s : State} {x : Except Fault α} {f : α → Except Fault State}
    (hx : ∀ rs, Keeps (Responded rs) p s x) (hf : ∀ a, Adds k (p a) (f a)) : Adds k s (x >>= f) := by
  intro t ht
  obtain ⟨a, ha, ht⟩ := bind_ok_iff.1 ht
  obtain ⟨rs, hrs, hk⟩ := hf a t ht
  exact ⟨rs, by rw [hrs, hx _ rfl a ha], hk⟩

/-- One pick that responds. -/
theorem Adds.answer {v : State → Response} (s : State) (hv : ∀ s, (v s).kind = k := by intro; rfl) :
    Adds k s (seq [answer v] s) := by
  intro t ht
  rw [seq_singleton] at ht
  obtain ⟨u, hu, -, -, rfl⟩ := micro_ok_iff.1 ht
  exact ⟨[v u], by rw [responses_performed, responses_of_gap hu]; rfl, hv u ▸ ofKind_kind (v u)⟩

theorem Adds.respond {v : Response} (s : State) (hv : v.kind = k := by rfl) : Adds k s (seq [respond v] s) :=
  Adds.answer (v := fun _ => v) s fun _ => hv

/-- A pick that does not respond, and then a response. -/
theorem Adds.thenRespond {p : Pick} {v : Response} (hp : PickSilent p) (s : State) (hv : v.kind = k := by rfl) :
    Adds k s (seq [p, Machine.respond v] s) := by
  rw [seq_cons]
  exact .after (p := id) (fun _ => micro_silent hp s) fun t => Adds.respond t hv

theorem Adds.query {α : Type} {j : Nat} {m : α → MicroStep} {value : State → α} {v : α → Response}
    (hm : ∀ x, responseOf (m x) = none) (s : State) (hv : ∀ x, (v x).kind = k := by intro; rfl) :
    Adds k s (query j m value v s) :=
  .after (fun _ => readStep_silent hm s) fun x => .respond x.2 (hv x.1)

theorem Adds.onSignal {sig : BitVec 4} {body : Signal → State → Except Fault State} (hb : ∀ n s, Adds k s (body n s))
    (s : State) : Adds k s (onSignal sig body s) := by
  unfold Machine.onSignal
  split
  · exact hb _ s
  · exact fun t ht => absurd ht (raise_ne_ok _ _ _)

/-- A command with the outcome `o` has added responses of the kind `k`, one or none, where it completes. -/
def Responds (k : ResponseKind) (s : State) (o : Host.Outcome State Fault Refusal) : Prop :=
  ∀ t, o = .next t → ∃ rs, t.responses = s.responses ++ rs ∧ ofKind k rs

theorem command_responds {body : State → Except Fault State} {s : State} (h : Adds k s.idle (body s.idle)) :
    Responds k s (command body s) := by
  intro t ht
  obtain ⟨u, hu, rfl⟩ := command_next_iff.1 ht
  exact h u hu

end

theorem command_silent {body : State → Except Fault State} {s : State}
    (h : ∀ rs, Keeps (Responded rs) id s.idle (body s.idle)) : Responds .silent s (command body s) :=
  command_responds (.silent h)

theorem command_pick_silent {p : Pick} (hp : PickSilent p) (s : State) : Responds .silent s (command (seq [p]) s) :=
  command_silent fun _ => seq_singleton_silent hp _

/-! ### The commands -/

theorem execBcTeston_silent (s : State) : Responds .silent s (execBcTeston s) := by
  refine command_silent fun rs => ?_
  split
  · exact seq_singleton_silent (pickSilent_logStep _) _
  · have hgrant : PickSilent fun s => (1, .grant (s.drawnBool 0)) := fun _ => rfl
    refine seq_silent (List.forall_mem_append.2 ⟨by simp [responseOf, hgrant], ?_⟩) _
    split <;> simp

theorem execBcRdmemn_responds (a : Addr) (len : BitVec 16) (s : State) :
    Responds .bytesOrNull s (execBcRdmemn a len s) := by
  refine command_responds ?_
  split
  · exact .thenRespond (pickSilent_logStep _) _
  · split
    · exact .thenRespond (fun _ => rfl) _
    · exact .after (s := s.idle) (fun _ => Keeps.after (t := s.idle.skip 1) id (readBytes_silent _ _ _))
        fun t => .respond t.2

theorem execBcWrmemn_silent (a : Addr) (len off : BitVec 16) (s : State) :
    Responds .silent s (execBcWrmemn a len off s) := by
  refine command_silent fun rs => ?_
  split
  · exact seq_singleton_silent (pickSilent_logStep _) _
  · split
    · exact seq_singleton_silent (pickSilent_logStep _) _
    · split
      · exact Keeps.raise
      · exact Keeps.forEach (fun _ => wrmemBody_silent _ _) _ _

theorem execBcCopy_silent (src dst : Addr) (len : BitVec 16) (s : State) :
    Responds .silent s (execBcCopy src dst len s) := by
  refine command_silent fun rs => ?_
  split
  · exact seq_singleton_silent (pickSilent_logStep _) _
  · refine (seq_silent ?_ _).bind fun t => Keeps.forEach (copyByte_silent _ _) _ t
    split <;> simp

theorem execBcFill_silent (a : Addr) (len : BitVec 16) (v : Byte) (s : State) :
    Responds .silent s (execBcFill a len v s) := by
  refine command_silent fun rs => ?_
  split
  · exact seq_singleton_silent (pickSilent_logStep _) _
  · exact Keeps.forEach (fun _ => wrmemBody_silent _ _) _ _

theorem execBcInt_responds (code : Byte) (tmo : BitVec 16) (s : State) :
    Responds .bool s (execBcInt code tmo s) := by
  refine command_responds ?_
  split
  · exact .thenRespond (pickSilent_logStep _) _
  · refine .after (fun _ => seq_singleton_silent (pickSilent_assertLine .int) _) fun t =>
      .after (fun _ => pollIntAck_silent _ t) fun u => ?_
    show Adds .bool u.2 (ite _ _ _)
    split
    · exact .after (fun _ => micro_silent pickSilent_dbSetwBody _) fun v =>
        .after (fun _ => micro_silent (pickSilent_dbWrBody _) v) fun v =>
        .after (fun _ => micro_silent (pickSilent_hold _) v) fun v =>
        .after (fun _ => micro_silent (pickSilent_deassertLine .int) v) fun v =>
        .thenRespond pickSilent_dbSetrBody v
    · rw [seq_cons]
      exact .after (fun _ => micro_silent (pickSilent_deassertLine .int) _)
        fun v => .thenRespond (pickSilent_logStep _) v

theorem execBcState_responds (s : State) : Responds .text s (execBcState s) :=
  command_responds (.after (fun _ => signalTexts_silent _ _) fun t =>
    .after (fun _ => abStateBody_silent t.2) fun u => .after (fun _ => dbStateBody_silent u.2) fun v =>
    .respond v.2)

theorem execBcInit_silent (rc : Bool) (s : State) : Responds .silent s (execBcInit rc s) := by
  refine command_silent fun rs => ?_
  split
  · exact seq_singleton_silent (pickSilent_logStep _) _
  · exact seq_silent (List.forall_mem_append.2 ⟨pickSilent_releaseAll, by simp [responseOf]⟩) _

theorem execBcShutdown_silent (s : State) : Responds .silent s (execBcShutdown s) := by
  refine command_silent fun rs => Keeps.bind (p := id) ?_ fun t => seq_silent pickSilent_releaseAll t
  split
  · exact testoffBody_silent _
  · exact Keeps.ok id

/-- Every command that completes has given the one response its kind names, or none. -/
theorem exec_responds (i : Instr) (s : State) : Responds (responseKind i) s (exec i s) := by
  cases i
  case spDir | spSet =>
    exact command_silent fun _ => onSignal_silent (fun _ => seq_singleton_silent (pickSilent_act.2 rfl)) _
  case spGet | spGetdir =>
    exact command_responds (.onSignal (fun _ u => .query (fun _ => rfl) u) _)
  case spAin | spAgetdir | spDin | spDgetdir | abRdaddr | abRdioaddr | dbRd =>
    exact command_responds (.query (fun _ => rfl) _)
  case spAdir | spAout | spDdir | spDout | abWrref => exact command_pick_silent (fun _ => rfl) s
  case abSetr => exact command_pick_silent pickSilent_abSetrBody s
  case abSetw => exact command_pick_silent pickSilent_abSetwBody s
  case abWraddr => exact command_pick_silent (pickSilent_abWraddrBody _) s
  case abWrioaddr => exact command_pick_silent (pickSilent_abWrioaddrBody _) s
  case abState =>
    unfold exec execAbState
    exact command_responds (.after (fun _ => abStateBody_silent _) fun t => .respond t.2)
  case dbSetr => exact command_pick_silent pickSilent_dbSetrBody s
  case dbSetw => exact command_pick_silent pickSilent_dbSetwBody s
  case dbWr => exact command_pick_silent (pickSilent_dbWrBody _) s
  case dbState =>
    unfold exec execDbState
    exact command_responds (.after (fun _ => dbStateBody_silent _) fun t => .respond t.2)
  case bcTeston => exact execBcTeston_silent s
  case bcTestoff => exact command_silent fun _ => testoffBody_silent _
  case bcWaiton =>
    exact command_pick_silent (fun u => responseOf_ite rfl (responseOf_ite rfl (pickSilent_assertLine .wait u))) s
  case bcWaitoff => exact command_pick_silent (fun u => responseOf_ite (pickSilent_deassertLine .wait u) rfl) s
  case bcRdmem =>
    unfold exec execBcRdmem
    exact command_responds (.after (fun _ => rdmemBody_silent _ _) fun t => .respond t.2)
  case bcWrmem => exact command_silent fun _ => wrmemBody_silent _ _ _
  case bcRdio =>
    unfold exec execBcRdio
    exact command_responds (.after (fun _ => rdioBody_silent _ _) fun t => .respond t.2)
  case bcWrio => exact command_silent fun _ => wrioBody_silent _ _ _
  case bcRdmemn => exact execBcRdmemn_responds _ _ s
  case bcWrmemn => exact execBcWrmemn_silent _ _ _ s
  case bcCopy => exact execBcCopy_silent _ _ _ s
  case bcFill => exact execBcFill_silent _ _ _ s
  case bcInt => exact execBcInt_responds _ _ s
  case bcRefon => exact command_pick_silent pickSilent_refonBody s
  case bcRefoff => exact command_pick_silent pickSilent_refoffBody s
  case bcState => exact execBcState_responds s
  case bcInit => exact execBcInit_silent _ s
  case bcShutdown => exact execBcShutdown_silent s
  all_goals exact command_responds (.answer _)

/-- Settles O15: every body is silent, or silent up to one response of the command's kind. -/
theorem responseKinds : Obligations.ResponseKinds := exec_responds

end Sys2Proof.Machine

/-! ## Cycles with a released strobe (40_signal_port.md R135, 70_reset_and_hazards.md R373)

A cycle that asserts a line the host has released runs as any other up to the first strobe that is an input, and ends
there. Before the critical section a refresh tick can meet RAS released, and then the run ends in the same fault. -/

namespace Sys2Proof.Machine
open Sys2Proof.Claims

/-! ### Ends in `FLT_WRITE_INPUT` -/

/-- The computation ends the run with `FLT_WRITE_INPUT`. -/
def EndsInWriteInput {α : Type} (r : Except Fault α) : Prop :=
  ∃ u : State, r = .error (.writeInput u) ∧ u.fault = some .writeInput

theorem endsInWriteInput_raise {α : Type} (s : State) : EndsInWriteInput (raise (α := α) .writeInput s) :=
  ⟨_, rfl, rfl⟩

theorem EndsInWriteInput.bind {α β : Type} {x : Except Fault α} (h : EndsInWriteInput x) (f : α → Except Fault β) :
    EndsInWriteInput (x >>= f) := by
  obtain ⟨u, rfl, hu⟩ := h
  exact ⟨u, rfl, hu⟩

theorem EndsInWriteInput.command {body : State → Except Fault State} {s : State} (h : EndsInWriteInput (body s.idle)) :
    ∃ u, command body s = .fault (.writeInput u) ∧ u.fault = some .writeInput := by
  obtain ⟨u, hu, hf⟩ := h
  exact ⟨u, command_of_error hu, hf⟩

theorem prevented_write_of_input {s : State} {n : Signal} (h : (s.line n).dir = .input) (l : Level) :
    (MicroStep.write n l).prevented s = some .writeInput := by
  simp [MicroStep.prevented, h]

/-- The level write of a released line, where no tick comes before it (R122). -/
theorem micro_of_released {p : Pick} {s : State} {n : Signal} {l : Level} (hg : gap s = .ok s)
    (hp : (p s).2 = .write n l) (hn : (s.line n).dir = .input) : EndsInWriteInput (micro false p s) := by
  rw [micro_of_gap hg, perform, hp, prevented_write_of_input hn]
  exact endsInWriteInput_raise s

/-! ### A tick with RAS released (44_interrupt_refresh.md R271) -/

theorem tickStep_write_of_input {s : State} {n : Signal} (h : (s.line n).dir = .input) (l : Level) :
    EndsInWriteInput (tickStep (.write n l) s) := by
  rw [tickStep, prevented_write_of_input h]
  exact endsInWriteInput_raise s

/-- The tick of a `Mutable` machine writes the row and then meets RAS an input. -/
theorem tick_of_released_ras {s : State} (hm : s.mutable = true) (hc : s.contention = false)
    (hr : s.signals.ras.dir = .input) : EndsInWriteInput (tick s) := by
  have hlatch := tickStep_of_safe (s := s) (m := .abLatch (withLowByte s.ab.latch (s.refreshRow.setWidth 8))) rfl
    ((contention_congr rfl rfl rfl rfl rfl).trans hc)
  rw [tick, if_pos hm, hlatch, ok_bind]
  refine EndsInWriteInput.bind (tickStep_write_of_input ?_ .low) _
  exact hr

theorem runTicks_of_released_ras (k : Nat) {s : State} (hm : s.mutable = true) (hc : s.contention = false)
    (hr : s.signals.ras.dir = .input) : runTicks k s = .ok s ∨ EndsInWriteInput (runTicks k s) := by
  cases k with
  | zero => exact .inl rfl
  | succ k => exact .inr ((tick_of_released_ras hm hc hr).bind _)

theorem boundary_of_released_ras {s : State} (hm : s.mutable = true) (hc : s.contention = false)
    (hr : s.signals.ras.dir = .input) : (∃ t, boundary s = .ok t) ∨ EndsInWriteInput (boundary s) := by
  unfold boundary
  split
  · exact (runTicks_of_released_ras _ (s := s.skip 1) hm hc hr).imp_left fun h => ⟨_, h⟩
  · exact .inl ⟨s, rfl⟩

/-- A boundary of a `Mutable` machine with no hazard either succeeds or meets RAS released. -/
theorem gap_of_mutable {s : State} (hm : s.mutable = true) (hc : s.contention = false) :
    (∃ t, gap s = .ok t) ∨ EndsInWriteInput (gap s) := by
  cases hr : s.signals.ras.dir with
  | output => exact .inl (gap_succeeds hc fun _ => ⟨hm, hr⟩)
  | input =>
    unfold gap
    split
    · exact .inl ⟨s, rfl⟩
    · exact boundary_of_released_ras hm hc hr

/-! ### Before the critical section -/

/-- A machine that can start a cycle, but for the line `n`, which is released. -/
structure ReleasedStrobe (n : Signal) (s : State) : Prop where
  isMutable : s.mutable = true
  granted : s.busGranted = true
  undriven : s.db.mask = 0
  noRead : s.asserted .rd = false
  noIn : s.asserted .ioIn = false
  released : (s.line n).dir = .input

theorem releasedStrobe_ofCells (n : Signal) : OfCells (ReleasedStrobe n) := fun _ =>
  ⟨fun ⟨hm, hg, hd, hr, hi, hn⟩ => ⟨hm, hg, hd, hr, hi, hn⟩, fun ⟨hm, hg, hd, hr, hi, hn⟩ => ⟨hm, hg, hd, hr, hi, hn⟩⟩

section
variable {n : Signal} {s : State} (h : ReleasedStrobe n s)
include h

theorem ReleasedStrobe.contention : s.contention = false := no_contention_of_granted h.granted h.undriven

theorem ReleasedStrobe.ticks {t : State} (g : TicksOnly s t) : ReleasedStrobe n t where
  isMutable := g.mutable.trans h.isMutable
  granted := g.busGranted.trans h.granted
  undriven := (congrArg Bus.mask g.db).trans h.undriven
  noRead := (g.asserted_eq (by decide)).trans h.noRead
  noIn := (g.asserted_eq (by decide)).trans h.noIn
  released := (g.line_dir n).trans h.released

theorem ReleasedStrobe.setMasked (b : Bool) : ReleasedStrobe n ((MicroStep.setMasked b).apply s) :=
  ⟨h.isMutable, h.granted, h.undriven, h.noRead, h.noIn, h.released⟩

/-- A micro-step before the critical section: it is performed, or a tick before it met RAS released. -/
theorem micro_of_releasedStrobe {m : MicroStep} (hp : ∀ v, m.prevented v = none)
    (hm : ∀ v, ReleasedStrobe n v → ReleasedStrobe n (m.apply v)) :
    EndsInWriteInput (micro false (act m) s) ∨
      ∃ v : State, micro false (act m) s = .ok (v.performed 0 false m) ∧ ReleasedStrobe n (v.performed 0 false m) := by
  rcases gap_of_mutable h.isMutable h.contention with ⟨v, hv⟩ | hend
  · have hv' : ReleasedStrobe n (v.performed 0 false m) :=
      (releasedStrobe_ofCells n).of_bare_eq (State.bare_performed 0 false m v) (hm v (h.ticks (gap_ok hv)))
    exact .inr ⟨v, (micro_of_gap hv).trans (perform_of_safe (hp v) hv'.contention), hv'⟩
  · exact .inl (hend.bind _)

/-- The check and the setting of the mask that open a cycle. -/
theorem opening_of_releasedStrobe :
    EndsInWriteInput (seq opening s) ∨ ∃ u, seq opening s = .ok u ∧ u.masked = true ∧ ReleasedStrobe n u := by
  rw [opening, seq_cons]
  rcases micro_of_releasedStrobe h (m := .check) (fun _ => rfl) fun _ hv => hv with hend | ⟨v, hv, released⟩
  · exact .inl (hend.bind _)
  · rw [hv, ok_bind, seq_singleton]
    exact (micro_of_releasedStrobe released (m := .setMasked true) (fun _ => rfl)
      fun _ hw => hw.setMasked true).imp_right fun ⟨w, hw, released'⟩ => ⟨_, hw, rfl, released'⟩

end

/-! ### Inside the critical section -/

/-- Inside the critical section of a cycle that strobes `lines`, of which those in `outs` are outputs and the others are
released. -/
structure BlockedCycle (lines outs : List Signal) (s : State) : Prop where
  mid : MidCycle outs s
  released : ∀ k ∈ lines, k ∉ outs → (s.line k).dir = .input

/-- The lines of a cycle that are outputs. -/
def outputsAmong (lines : List Signal) (s : State) : List Signal := lines.filter fun k => (s.line k).dir == .output

theorem mem_outputsAmong {lines : List Signal} {s : State} {k : Signal} :
    k ∈ outputsAmong lines s ↔ k ∈ lines ∧ (s.line k).dir = .output := by simp [outputsAmong]

theorem ReleasedStrobe.blockedCycle {n : Signal} {s : State} (h : ReleasedStrobe n s) (hm : s.masked = true)
    (lines : List Signal) : BlockedCycle lines (outputsAmong lines s) s where
  mid := ⟨hm, h.granted, fun _ hk => (mem_outputsAmong.1 hk).2, fun _ => h.undriven, fun _ => ⟨h.noRead, h.noIn⟩⟩
  released := fun k hk hout => by
    cases hd : (s.line k).dir with
    | input => rfl
    | output => exact absurd (mem_outputsAmong.2 ⟨hk, hd⟩) hout

/-- No micro-step of a cycle writes a direction. -/
theorem apply_line_dir_of_cycleStep {lines : List Signal} {m : MicroStep} (hm : cycleStep lines m = true) (s : State)
    (k : Signal) : ((m.apply s).line k).dir = (s.line k).dir := by
  cases m with
  | setDir | driveOut => cases hm
  | write n l =>
    by_cases hk : k = n
    · subst hk
      simp only [MicroStep.apply, State.line_setLine_same]
    · exact congrArg Line.dir (State.line_setLine_other _ s hk)
  | _ => rfl

theorem BlockedCycle.performed {lines outs : List Signal} {s : State} (h : BlockedCycle lines outs s) {m : MicroStep}
    (hm : cycleStep outs m = true) (k : Nat) : BlockedCycle lines outs (s.performed k false m) where
  mid := h.mid.performed hm k
  released := fun j hj hout => (apply_line_dir_of_cycleStep hm s j).trans (h.released j hj hout)

theorem strobesRead_of_subset {lines outs : List Signal} (hsub : outs ⊆ lines) (h : strobesRead lines = false) :
    strobesRead outs = false := by
  obtain ⟨hrd, hin⟩ : Signal.rd ∉ lines ∧ Signal.ioIn ∉ lines := by simpa [strobesRead] using h
  have hrd' : Signal.rd ∉ outs := fun hm => hrd (hsub hm)
  have hin' : Signal.ioIn ∉ outs := fun hm => hin (hsub hm)
  simp [strobesRead, hrd', hin']

/-- A micro-step of a cycle is one of the same cycle on some of its lines, or the level write of another of them. -/
theorem cycleStep_of_subset {lines outs : List Signal} (hsub : outs ⊆ lines) {m : MicroStep}
    (hm : cycleStep lines m = true) : cycleStep outs m = true ∨ ∃ k l, m = .write k l ∧ k ∈ lines ∧ k ∉ outs := by
  cases m with
  | write k l =>
    obtain ⟨hk, ht⟩ : k ∈ lines ∧ k ≠ .test := by simpa [cycleStep] using hm
    by_cases hout : k ∈ outs
    · exact .inl (by simp [cycleStep, hout, ht])
    · exact .inr ⟨k, l, rfl, hk, hout⟩
  | dbSetWritable | dbSetReadable =>
    have hr : strobesRead lines = false := by simpa [cycleStep] using hm
    exact .inl (by simp [cycleStep, strobesRead_of_subset hsub hr])
  | _ => exact .inl hm

/-- The strobes of a cycle end the run at the first that is released. -/
theorem seq_of_blockedCycle {lines outs : List Signal} (hsub : outs ⊆ lines) {ps : List Pick}
    (hps : ∀ p ∈ ps, CyclePick lines p) {n : Signal} {l : Level} (hn : act (.write n l) ∈ ps) (hout : n ∉ outs)
    {s : State} (h : BlockedCycle lines outs s) : EndsInWriteInput (seq ps s) := by
  induction ps generalizing s with
  | nil => cases hn
  | cons p ps ih =>
    rcases cycleStep_of_subset hsub (hps p List.mem_cons_self s) with hm | ⟨k, j, hp, hk, hkout⟩
    · rw [seq_cons_of_safe h.mid.gap (h.mid.unprevented hm) (h.mid.performed hm _).contention]
      have hne : act (.write n l) ≠ p := by
        rintro rfl
        simp [act, cycleStep, hout] at hm
      exact ih (fun q hq => hps q (List.mem_cons_of_mem _ hq)) ((List.mem_cons.1 hn).resolve_left hne)
        (h.performed hm _)
    · exact (micro_of_released h.mid.gap hp (h.released k hk hkout)).bind _

/-- A cycle from its start up to its strobes, where one of them is released. -/
theorem seq_of_releasedStrobe {lines : List Signal} {ps : List Pick} (hps : ∀ p ∈ ps, CyclePick lines p) {n : Signal}
    {l : Level} (hn : act (.write n l) ∈ ps) {s : State} (h : ReleasedStrobe n s) :
    EndsInWriteInput (seq (opening ++ ps) s) := by
  rw [seq_append]
  rcases opening_of_releasedStrobe h with hend | ⟨u, hu, hmask, released⟩
  · exact hend.bind _
  · rw [hu, ok_bind]
    refine seq_of_blockedCycle (fun _ hk => (mem_outputsAmong.1 hk).1) hps hn (fun hout => ?_)
      (released.blockedCycle hmask lines)
    have hd := (mem_outputsAmong.1 hout).2
    rw [released.released] at hd
    cases hd

/-! ### The four cycles -/

@[simp] theorem cyclePick_ioAddress {lines : List Signal} (p : Byte) :
    CyclePick lines (cycleAddress (abWrioaddrBody p)) := fun _ => cycleStep_ite rfl (cycleStep_ite rfl rfl)

/-- A shared-control line is asserted by its level (40_signal_port.md R134). -/
theorem assertLine_eq_write {n : Signal} (h : requestLine n = false) :
    assertLine n = act (.write n (activeLevel n)) := by
  simp [assertLine, h]

theorem cyclePick_assertLine {lines : List Signal} {n : Signal} (hr : requestLine n = false) (hn : n ∈ lines) :
    CyclePick lines (assertLine n) := by
  have ht : n ≠ .test := by rintro rfl; cases hr
  simp [assertLine_eq_write hr, cycleStep, hn, ht]

/-- The strobes of a cycle in the full shape, each with its hold: RAS, the cycle's own strobe `n`, MUX, CAS (R220 to
R223). -/
def strobePicks (n : Signal) (h1 h2 h3 h4 : Hold) : List Pick :=
  [assertLine .ras, hold h1, assertLine n, hold h2, assertLine .mux, hold h3, assertLine .cas, hold h4]

section
variable {n k : Signal} {s : State} (h : ReleasedStrobe k s)
include h

/-- A full-shaped cycle, with what it does to the buses before its strobes in `ps`. -/
theorem seq_fullCycle_of_releasedStrobe (hr : requestLine n = false) (hk : k ∈ [.ras, n, .mux, .cas]) {ps : List Pick}
    (hps : ∀ p ∈ ps, CyclePick [.ras, n, .mux, .cas] p) (h1 h2 h3 h4 : Hold) :
    EndsInWriteInput (seq (opening ++ (ps ++ strobePicks n h1 h2 h3 h4)) s) := by
  have hrequest : ∀ j ∈ [.ras, n, .mux, .cas], requestLine j = false := by
    simp only [List.forall_mem_cons]
    exact ⟨rfl, hr, rfl, rfl, nofun⟩
  have hcycle : ∀ j ∈ [.ras, n, .mux, .cas], CyclePick [.ras, n, .mux, .cas] (assertLine j) :=
    fun j hj => cyclePick_assertLine (hrequest j hj) hj
  have hassert : ∀ j ∈ [.ras, n, .mux, .cas], assertLine j ∈ strobePicks n h1 h2 h3 h4 := by simp [strobePicks]
  refine seq_of_releasedStrobe (lines := [.ras, n, .mux, .cas]) (n := k) (l := activeLevel k)
    (List.forall_mem_append.2 ⟨hps, ?_⟩) (List.mem_append_right _ ?_) h
  · simp only [List.forall_mem_cons] at hcycle
    simp [strobePicks, hcycle]
  · rw [← assertLine_eq_write (hrequest k hk)]
    exact hassert k hk

/-- An I/O cycle that strobes IN or OUT only. -/
theorem seq_strobeOnly_of_releasedStrobe (hr : requestLine k = false) {ps : List Pick}
    (hps : ∀ p ∈ ps, CyclePick [k] p) (hd : Hold) :
    EndsInWriteInput (seq (opening ++ (ps ++ [assertLine k, hold hd])) s) := by
  refine seq_of_releasedStrobe (lines := [k]) (l := activeLevel k) (List.forall_mem_append.2 ⟨hps, ?_⟩)
    (List.mem_append_right _ ?_) h
  · simp [cyclePick_assertLine, hr]
  · simp [assertLine_eq_write hr]

theorem rdmemBody_of_releasedStrobe (hk : k ∈ [.ras, .rd, .mux, .cas]) (a : Addr) :
    EndsInWriteInput (rdmemBody a s) := by
  rw [rdmemBody, if_pos h.isMutable]
  exact (seq_fullCycle_of_releasedStrobe h (n := .rd) rfl hk (ps := [cycleAddress (abWraddrBody a)])
    (by simp) _ _ _ _).bind _

theorem wrmemBody_of_releasedStrobe (hk : k ∈ [.ras, .wr, .mux, .cas]) (a : Addr) (d : Byte) :
    EndsInWriteInput (wrmemBody a d s) := by
  rw [wrmemBody, if_pos h.isMutable]
  exact (seq_fullCycle_of_releasedStrobe h (n := .wr) rfl hk
    (ps := [dbSetwBody, cycleAddress (abWraddrBody a), dbWrBody d])
    (by simp [cyclePick_dbSetwBody, strobesRead]) _ _ _ _).bind _

theorem rdioBody_of_releasedStrobe (hk : k ∈ ioLines s.params .ioIn) (p : Byte) :
    EndsInWriteInput (rdioBody p s) := by
  rw [rdioBody, if_pos h.isMutable]
  unfold ioLines at hk
  split <;> rename_i hshape <;> rw [hshape] at hk
  · exact (seq_fullCycle_of_releasedStrobe h (n := .ioIn) rfl hk (ps := [cycleAddress (abWrioaddrBody p)])
      (by simp) _ _ _ _).bind _
  · obtain rfl := List.mem_singleton.1 hk
    exact (seq_strobeOnly_of_releasedStrobe h rfl (ps := [cycleAddress (abWrioaddrBody p)]) (by simp) _).bind _

theorem wrioBody_of_releasedStrobe (hk : k ∈ ioLines s.params .ioOut) (p d : Byte) :
    EndsInWriteInput (wrioBody p d s) := by
  rw [wrioBody, if_pos h.isMutable]
  unfold ioLines at hk
  split <;> rename_i hshape <;> rw [hshape] at hk
  · exact (seq_fullCycle_of_releasedStrobe h (n := .ioOut) rfl hk
      (ps := [dbSetwBody, cycleAddress (abWrioaddrBody p), dbWrBody d])
      (by simp [cyclePick_dbSetwBody, strobesRead]) _ _ _ _).bind _
  · obtain rfl := List.mem_singleton.1 hk
    exact (seq_strobeOnly_of_releasedStrobe h rfl (ps := [dbSetwBody, cycleAddress (abWrioaddrBody p), dbWrBody d])
      (by simp [cyclePick_dbSetwBody, strobesRead]) _).bind _

end

/-- Settles O42: of the commands only the four cycles strobe lines, and each ends in the fault at its first released
strobe or at a tick before. -/
theorem releasedStrobeFaults : Obligations.ReleasedStrobeFaults := by
  intro i n s _ hm hg hd hr hi hn hin
  have h : ReleasedStrobe n s.idle := ⟨hm, hg, hd, hr, hi, hin⟩
  cases i with
  | bcRdmem a =>
    unfold exec execBcRdmem
    exact EndsInWriteInput.command ((rdmemBody_of_releasedStrobe h hn a).bind _)
  | bcWrmem a d => exact (wrmemBody_of_releasedStrobe h hn a d).command
  | bcRdio p =>
    unfold exec execBcRdio
    exact EndsInWriteInput.command ((rdioBody_of_releasedStrobe h hn p).bind _)
  | bcWrio p d => exact (wrioBody_of_releasedStrobe h hn p d).command
  | _ => cases hn

end Sys2Proof.Machine

/-! ## Commands of one micro-step, and queries of two (40_signal_port.md R120)

`oneStep_of_pick` says what a command of one pick comes to, hazard or not, and `reads_of_query` what a query does, with
the ticks between its read and its response. -/

namespace Sys2Proof.Machine
open Sys2Proof.Claims

/-- The word of a one-word command, in the format table's form (30_encoding.md R92 to R103). -/
theorem coded_of_layout {i : Instr} {w : CommandWord} (h : layout i = (w, 0#32)) : Coded i w :=
  (wordsFollowFormatTables i).trans h

theorem command_onSignal_field (n : Signal) (body : Signal → State → Except Fault State) (s : State) :
    command (onSignal (signalField n) body) s = command (body n) s := by
  simp only [command, onSignal_field]

/-! ### Commands of one micro-step -/

/-- Between commands, the state after a command of one micro-step: the foreground agent is at rest again. -/
theorem idle_performed (k : Nat) (ack : Bool) (m : MicroStep) (s : State) :
    (s.idle.performed k ack m).idle = ((m.apply s.idle).skip k).record .foreground m := by
  have hrest : (s.idle.performed k ack m).idle = (((m.apply s.idle).skip k).record .foreground m).idle := rfl
  rw [hrest, State.idle_eq_self] <;> simp

/-- In the middle of such a command, after its micro-step: the position is 1. -/
theorem performed_idle_eq (k : Nat) (m : MicroStep) (s : State) :
    s.idle.performed k false m = { ((m.apply s.idle).skip k).record .foreground m with position := 1 } := by
  rw [← idle_performed k false]
  rfl

theorem perform_of_contention {k : Nat} {ack : Bool} {m : MicroStep} {s : State} (hp : m.prevented s = none)
    (hc : (s.performed k ack m).contention = true) :
    perform k ack m s = .error (.contention { s.performed k ack m with fault := some .contention }) := by
  simp only [perform, hp, settle, hc, if_true]
  rfl

/-- A command of one pick that nothing prevents is one micro-step, a hazard after it or not. -/
theorem oneStep_of_pick {i : Instr} {p : Pick} {s : State} {k : Nat} {m : MicroStep} {u : State → State}
    (hi : exec i s = command (seq [p]) s) (hp : p s.idle = (k, m)) (hprev : m.prevented s.idle = none)
    (hu : u s.idle = m.apply s.idle) : OneStep i s k m u := by
  have hbody : seq [p] s.idle = perform k false m s.idle := by
    rw [seq_singleton, micro_of_gap (gap_of_start rfl), hp]
  simp only [OneStep, hu, hi]
  have hcont : (s.idle.performed k false m).contention =
      (((m.apply s.idle).skip k).record .foreground m).contention := by rw [performed_idle_eq]; rfl
  constructor <;> intro hc <;> rw [← hcont] at hc
  · rw [command_of_ok (hbody.trans (perform_of_safe hprev hc)), idle_performed]
  · rw [command_of_error (hbody.trans (perform_of_contention hprev hc)), performed_idle_eq]

/-- A command whose one micro-step is prevented ends the run in the state before it (60_exceptions.md R333). -/
theorem command_act_prevented {m : MicroStep} {s : State} {k : FaultKind} (h : m.prevented s.idle = some k) :
    command (seq [act m]) s = .fault (faultOf k { s.idle with fault := some k }) :=
  command_of_error (by
    rw [seq_singleton, micro_of_gap (gap_of_start rfl)]
    simp only [act, perform, h]
    rfl)

/-! ### Boundaries that cannot fault -/

/-- A tick succeeds where RAS is an output, `Mutable` or not: while Immutable it only logs (44_interrupt_refresh.md
R271). -/
theorem tick_succeeds {s : State} (hc : s.contention = false) (hr : s.signals.ras.dir = .output) :
    ∃ t, tick s = .ok t := by
  cases hm : s.mutable with
  | true => exact ⟨_, tick_mutable hm hr hc⟩
  | false => exact ⟨_, (tick_immutable hm).trans (tickStep_of_safe rfl hc)⟩

theorem runTicks_succeeds_of_ras (n : Nat) {s : State} (hc : s.contention = false)
    (hr : s.signals.ras.dir = .output) : ∃ t, runTicks n s = .ok t := by
  induction n generalizing s with
  | zero => exact ⟨s, rfl⟩
  | succ n ih =>
    obtain ⟨u, hu⟩ := tick_succeeds hc hr
    have only := (tick_ok hu).1
    rw [runTicks, hu, ok_bind]
    exact ih (only.contention.trans hc) ((only.line_dir .ras).trans hr)

theorem gap_succeeds_of_tickReady {s : State} (hc : s.contention = false) (h : TickReady s) : ∃ t, gap s = .ok t := by
  unfold gap boundary
  split
  · exact ⟨s, rfl⟩
  · split
    · next he =>
      have hen : s.refreshEnabled = true := by simp_all [State.tickEnabled]
      exact runTicks_succeeds_of_ras _ (s := s.skip 1) hc (h hen)
    · exact ⟨s, rfl⟩

/-! ### Queries -/

/-- A micro-step that reads or responds: nothing prevents it and it changes no cell. -/
def Inert (m : MicroStep) : Prop := ∀ s, m.prevented s = none ∧ m.apply s = s

theorem inert_respond (v : Response) : Inert (.respond v) := fun _ => ⟨rfl, rfl⟩

theorem performed_of_inert {m : MicroStep} (hm : Inert m) (k : Nat) (ack : Bool) (s : State) :
    s.performed k ack m =
      { (s.skip k).record .foreground m with position := s.position + 1, intAckDrive := ack } := by
  simp only [State.performed, (hm s).2]

theorem bare_performed_of_inert {m : MicroStep} (hm : Inert m) (k : Nat) (ack : Bool) (s : State) :
    (s.performed k ack m).bare = s.bare := by rw [performed_of_inert hm]; rfl

theorem contention_performed_of_inert {m : MicroStep} (hm : Inert m) (k : Nat) {s : State}
    (hi : s.intAckDrive = false) : (s.performed k false m).contention = s.contention := by
  rw [performed_of_inert hm]
  exact contention_congr rfl rfl rfl rfl hi.symm

theorem perform_of_inert {m : MicroStep} (hm : Inert m) (k : Nat) {s : State} (hi : s.intAckDrive = false)
    (hc : s.contention = false) : perform k false m s = .ok (s.performed k false m) :=
  perform_of_safe (hm s).1 ((contention_performed_of_inert hm k hi).trans hc)

/-- What a command leaves, said of the states its foreground agent reaches. -/
theorem leaves_of_bare {s e x : State} (h : x.bare.sansTicks = e.bare.sansTicks)
    (hoff : s.refreshEnabled = false → x.bare = e.bare) : Leaves s e.idle x.idle := ⟨h, hoff⟩

section
variable {α : Type} {i : Instr} {k : Nat} {m : α → MicroStep} {value : State → α} {v : α → Response}

/-- A query with no hazard standing, given what the boundary between its read and its response leaves. -/
theorem command_query {s u : State} (hm : ∀ x, Inert (m x)) (hs : Quiet s)
    (hu : gap (s.idle.performed k false (m (value s.idle))) = .ok u) :
    command (query k m value v) s = .next (u.performed 0 false (.respond (v (value s.idle)))).idle := by
  have only := gap_ok hu
  have hcalm : u.contention = false :=
    only.contention.trans ((contention_performed_of_inert (hm _) k rfl).trans hs)
  refine command_of_ok ?_
  rw [query, readStep_of_gap (gap_of_start rfl), perform_of_inert (hm _) k rfl hs]
  show seq [respond _] _ = _
  rw [seq_singleton, micro_of_gap hu]
  exact perform_of_inert (inert_respond _) 0 only.intAckDrive hcalm

/-- A command that is a query answers what it read, and changes nothing but what ticks write before the response. -/
theorem reads_of_query (hi : ∀ s, exec i s = command (query k m value v) s) (hm : ∀ x, Inert (m x))
    (hv : ∀ s, value s.idle = value s) : Reads i k (fun s => m (value s)) fun s => v (value s) := by
  intro s hs
  have read := performed_of_inert (hm (value s)) k false s.idle
  have hquery (u : State) (hu : gap (s.idle.performed k false (m (value s))) = .ok u) :
      exec i s = .next (u.performed 0 false (.respond (v (value s)))).idle := by
    rw [← hv s] at hu ⊢
    exact (hi s).trans (command_query hm hs hu)
  have gap_off (hoff : s.tickEnabled = false) : gap (s.idle.performed k false (m (value s))) = .ok _ :=
    gap_of_disabled (by rw [read]; exact hoff)
  refine ⟨fun hoff => ?_, fun hready => ?_⟩
  · rw [hquery _ (gap_off hoff), performed_of_inert (inert_respond _), read]
    rfl
  · obtain ⟨u, hu⟩ := gap_succeeds_of_tickReady (s := s.idle.performed k false (m (value s)))
      ((contention_performed_of_inert (hm _) k rfl).trans hs) (by rw [read]; exact hready)
    have only := gap_ok hu
    refine ⟨_, hquery u hu, ?_, leaves_of_bare ?_ fun hoff => ?_⟩
    · calc (u.performed 0 false (.respond (v (value s)))).foregroundSteps
          = u.foregroundSteps ++ [.respond (v (value s))] := (does_performed _ _ _ u).foregroundSteps
        _ = (s.foregroundSteps ++ [m (value s)]) ++ [.respond (v (value s))] := by
            rw [only.foregroundSteps, (does_performed _ _ _ s.idle).foregroundSteps]; rfl
        _ = s.foregroundSteps ++ [m (value s), .respond (v (value s))] := List.append_assoc _ _ _
    · calc (u.performed 0 false (.respond (v (value s)))).bare.sansTicks
          = u.bare.sansTicks := by rw [bare_performed_of_inert (inert_respond _)]
        _ = (s.idle.performed k false (m (value s))).bare.sansTicks := congrArg State.bare only.same
        _ = s.bare.sansTicks := by rw [bare_performed_of_inert (hm _), State.bare_idle]
    · obtain rfl : s.idle.performed k false (m (value s)) = u :=
        Except.ok.inj ((gap_off (by simp [State.tickEnabled, hoff])).symm.trans hu)
      rw [bare_performed_of_inert (inert_respond _), bare_performed_of_inert (hm _), State.bare_idle]

end

/-! ### SP.GET, SP.GETDIR and the raw bus reads (R123, R124, R128, R129, R132, R133) -/

/-- The level on a line, in the words of R24. -/
theorem lineLevel_eq_seen (s : State) (n : Signal) (k : Nat) : s.lineLevel n k = seen s n k := by
  unfold State.lineLevel seen
  cases (s.line n).dir <;> rfl

theorem reads_spGet (n : Signal) :
    Reads (.spGet (signalField n)) 1 (fun s => .sampleLine n (seen s n 0)) fun s => .level (seen s n 0) := by
  simp only [← lineLevel_eq_seen]
  exact reads_of_query (value := fun s => s.lineLevel n 0) (fun s => command_onSignal_field n _ s)
    (fun _ _ => ⟨rfl, rfl⟩) fun _ => rfl

theorem reads_spGetdir (n : Signal) :
    Reads (.spGetdir (signalField n)) 0 (fun s => .readDir n (s.line n).dir) fun s => .dir (s.line n).dir :=
  reads_of_query (value := fun s => (s.line n).dir) (fun s => command_onSignal_field n _ s)
    (fun _ _ => ⟨rfl, rfl⟩) fun _ => rfl

/-- Settles O21: both are queries, of the line's level and of its direction. -/
theorem signalQueries : Obligations.SignalQueries := fun n =>
  ⟨⟨coded_of_layout rfl, reads_spGet n⟩, ⟨coded_of_layout rfl, reads_spGetdir n⟩⟩

theorem reads_spAin : Reads .spAin 1 (fun s => .sampleAb (abShown s)) fun s => .word (abShown s) :=
  reads_of_query (value := fun s => s.abLines 0) (fun _ => rfl) (fun _ _ => ⟨rfl, rfl⟩) fun _ => rfl

theorem reads_spAgetdir : Reads .spAgetdir 0 (fun s => .readAbMask s.ab.mask) fun s => .word s.ab.mask :=
  reads_of_query (value := fun s => s.ab.mask) (fun _ => rfl) (fun _ _ => ⟨rfl, rfl⟩) fun _ => rfl

theorem reads_spDin : Reads .spDin 1 (fun s => .sampleDb (dbShown s)) fun s => .byte (dbShown s) :=
  reads_of_query (value := fun s => s.dbLines 0) (fun _ => rfl) (fun _ _ => ⟨rfl, rfl⟩) fun _ => rfl

theorem reads_spDgetdir : Reads .spDgetdir 0 (fun s => .readDbMask s.db.mask) fun s => .byte s.db.mask :=
  reads_of_query (value := fun s => s.db.mask) (fun _ => rfl) (fun _ _ => ⟨rfl, rfl⟩) fun _ => rfl

/-- Settles O22: the four are queries, of the lines with one draw and of the masks. -/
theorem rawBusQueries : Obligations.RawBusQueries :=
  ⟨⟨coded_of_layout rfl, reads_spAin⟩, ⟨coded_of_layout rfl, reads_spAgetdir⟩, ⟨coded_of_layout rfl, reads_spDin⟩,
    ⟨coded_of_layout rfl, reads_spDgetdir⟩⟩

/-! ### SP.DIR and SP.SET (R121, R122) -/

theorem inputOnly_iff {n : Signal} : inputOnly n = true ↔ n = .sysRes ∨ n = .intAck :=
  ⟨inputOnly_cases, by rintro (rfl | rfl) <;> rfl⟩

/-- SP.DIR is kept from its write exactly where it would drive an input-only line. -/
theorem prevented_setDir (n : Signal) (d : Dir) (s : State) :
    (MicroStep.setDir n d).prevented s =
      if d = .output ∧ (n = .sysRes ∨ n = .intAck) then some .inputOnly else none := by
  simp only [MicroStep.prevented, inputOnly_iff]

/-- SP.SET is kept from its write exactly where the line is an input. -/
theorem prevented_write_of_output {s : State} {n : Signal} (h : (s.line n).dir = .output) (l : Level) :
    (MicroStep.write n l).prevented s = none := by
  simp [MicroStep.prevented, h]

/-- Settles O23: SP.DIR is one micro-step, prevented on an input-only line. -/
theorem setDirection : Obligations.SetDirection := by
  intro n d s
  have hexec : exec (.spDir (signalField n) d) s = command (seq [act (.setDir n d)]) s :=
    command_onSignal_field n _ s
  refine ⟨coded_of_layout rfl, fun hin => ?_, fun hin => ?_⟩
  · rw [hexec]
    exact command_act_prevented (by rw [prevented_setDir, if_pos hin])
  · exact oneStep_of_pick hexec rfl (by rw [prevented_setDir, if_neg hin]) rfl

/-- A level write to an output keeps the direction, and loses the bus where it takes TEST high (10_state.md R37). -/
theorem apply_write_of_output {s : State} {n : Signal} (h : (s.line n).dir = .output) (l : Level) :
    (MicroStep.write n l).apply s =
      { s with
        signals := s.signals.set n ⟨.output, l⟩
        busGranted := if n = .test ∧ l = .high then false else s.busGranted } := by
  have hhigh : ¬ l = .low ↔ l = .high := by cases l <;> decide
  simp [MicroStep.apply, State.setLine, h, activeLevel, hhigh]

/-- Settles O24: SP.SET is one micro-step, prevented on an input. -/
theorem setLevel : Obligations.SetLevel := by
  intro n l s
  have hexec : exec (.spSet (signalField n) l) s = command (seq [act (.write n l)]) s :=
    command_onSignal_field n _ s
  refine ⟨coded_of_layout rfl, fun hin => ?_, fun hout => ?_⟩
  · rw [hexec]
    exact command_act_prevented (prevented_write_of_input (s := s.idle) hin l)
  · exact oneStep_of_pick hexec rfl (prevented_write_of_output (s := s.idle) hout l)
      (apply_write_of_output (s := s.idle) hout l).symm

/-! ### The raw bus writes (R126, R127, R130, R131) -/

/-- No hazard outside the acknowledged path of BC.INT, in the words of R334: nothing shared is driven without the bus
granted, and the data bus is not driven during a read strobe. -/
theorem contention_eq_false_iff {s : State} (hi : s.intAckDrive = false) :
    s.contention = false ↔
      (s.busGranted = false → s.ab.mask = 0 ∧ s.sharedOut = false ∧ s.db.mask = 0) ∧
      (s.db.mask ≠ 0 → s.asserted .rd = false ∧ s.asserted .ioIn = false) := by
  cases hg : s.busGranted with
  | false =>
    rw [contention_of_not_granted hg hi]
    exact ⟨fun h => ⟨fun _ => h, fun hd => absurd h.2.2 hd⟩, fun h => h.1 rfl⟩
  | true => simp [State.contention, hg]

section
variable {s : State} (hs : Quiet s)
include hs

/-- After a write of the address mask no hazard stands exactly where no line is driven or the bus is granted (R126). -/
theorem contention_abMask_iff (m : BitVec 16) :
    { s.idle with ab := { s.ab with mask := m } }.contention = false ↔ m = 0 ∨ s.busGranted = true := by
  obtain ⟨hgrant, hread⟩ := (contention_eq_false_iff (s := s.idle) rfl).1 hs
  rw [contention_eq_false_iff rfl]
  cases hg : s.busGranted with
  | false =>
    obtain ⟨-, hshared, hdb⟩ := hgrant hg
    exact ⟨fun h => .inl (h.1 hg).1, fun h => ⟨fun _ => ⟨h.resolve_right (by simp), hshared, hdb⟩, hread⟩⟩
  | true => exact ⟨fun _ => .inr rfl, fun _ => ⟨fun hf => absurd (hg.symm.trans hf) (by simp), hread⟩⟩

/-- After a write of the data mask no hazard stands exactly where no line is driven, or the bus is granted and no read
strobe asserted (R130). -/
theorem contention_dbMask_iff (m : BitVec 8) :
    { s.idle with db := { s.db with mask := m } }.contention = false ↔
      m = 0 ∨ (s.busGranted = true ∧ s.asserted .rd = false ∧ s.asserted .ioIn = false) := by
  obtain ⟨hgrant, -⟩ := (contention_eq_false_iff (s := s.idle) rfl).1 hs
  rw [contention_eq_false_iff rfl]
  by_cases hm : m = 0
  · refine iff_of_true ⟨fun hg => ?_, fun hne => absurd hm hne⟩ (.inl hm)
    obtain ⟨hab, hshared, -⟩ := hgrant hg
    exact ⟨hab, hshared, hm⟩
  · refine ⟨fun ⟨hg, hread⟩ => .inr ⟨?_, hread hm⟩, fun h => ?_⟩
    · by_contra hb
      exact hm (hg (by simpa using hb)).2.2
    · obtain ⟨hg, hread⟩ := h.resolve_left hm
      exact ⟨fun hf => absurd (hg.symm.trans hf) (by simp), fun _ => hread⟩

/-- The latches play no part in a hazard. -/
theorem contention_abLatch (v : BitVec 16) : { s.idle with ab := { s.ab with latch := v } }.contention = false :=
  (contention_congr rfl rfl rfl rfl rfl).trans hs

theorem contention_dbLatch (v : BitVec 8) : { s.idle with db := { s.db with latch := v } }.contention = false :=
  (contention_congr rfl rfl rfl rfl rfl).trans hs

end

theorem OneStep.completes {i : Instr} {s : State} {k : Nat} {m : MicroStep} {u : State → State}
    (h : OneStep i s k m u) (hc : (u s.idle).contention = false) : exec i s = .next (logged k [m] (u s.idle)) := h.1 hc

theorem OneStep.faults {i : Instr} {s : State} {k : Nat} {m : MicroStep} {u : State → State}
    (h : OneStep i s k m u) (hc : ¬ (u s.idle).contention = false) :
    exec i s = .fault (.contention (logged k [m] { u s.idle with position := 1, fault := some .contention })) :=
  h.2 (by simpa using hc)

/-- A command of one micro-step that does not look at the state and is never prevented. -/
theorem oneStep_of_act {i : Instr} {m : MicroStep} (hi : ∀ s, exec i s = command (seq [act m]) s)
    (hp : ∀ s, m.prevented s = none) (s : State) : OneStep i s 0 m m.apply :=
  oneStep_of_pick (hi s) rfl (hp _) rfl

theorem oneStep_spAdir (m : BitVec 16) (s : State) : OneStep (.spAdir m) s 0 (.abMask m) (MicroStep.abMask m).apply :=
  oneStep_of_act (fun _ => rfl) (fun _ => rfl) s

theorem oneStep_spDdir (m : BitVec 8) (s : State) : OneStep (.spDdir m) s 0 (.dbMask m) (MicroStep.dbMask m).apply :=
  oneStep_of_act (fun _ => rfl) (fun _ => rfl) s

theorem oneStep_spAout (v : BitVec 16) (s : State) : OneStep (.spAout v) s 0 (.abLatch v) (MicroStep.abLatch v).apply :=
  oneStep_of_act (fun _ => rfl) (fun _ => rfl) s

theorem oneStep_spDout (v : BitVec 8) (s : State) : OneStep (.spDout v) s 0 (.dbLatch v) (MicroStep.dbLatch v).apply :=
  oneStep_of_act (fun _ => rfl) (fun _ => rfl) s

/-- Settles O25: each is one micro-step, which nothing prevents; what is left to say is when a hazard follows. -/
theorem rawBusWrites : Obligations.RawBusWrites := by
  intro s hs
  refine ⟨fun m => ⟨coded_of_layout rfl, fun h => ?_, fun ⟨hm, hg⟩ => ?_⟩,
    fun m => ⟨coded_of_layout rfl, fun h => ?_, fun ⟨hm, h⟩ => ?_⟩,
    fun v => ⟨coded_of_layout rfl, (oneStep_spAout v s).completes (contention_abLatch hs v)⟩,
    fun v => ⟨coded_of_layout rfl, (oneStep_spDout v s).completes (contention_dbLatch hs v)⟩⟩
  · exact (oneStep_spAdir m s).completes ((contention_abMask_iff hs m).2 h)
  · refine (oneStep_spAdir m s).faults fun hc => ?_
    have hgranted := ((contention_abMask_iff hs m).1 hc).resolve_left hm
    simp [hg] at hgranted
  · exact (oneStep_spDdir m s).completes ((contention_dbMask_iff hs m).2 h)
  · refine (oneStep_spDdir m s).faults fun hc => ?_
    obtain ⟨hg, hr, hi⟩ := ((contention_dbMask_iff hs m).1 hc).resolve_left hm
    simp [hg, hr, hi] at h

end Sys2Proof.Machine

/-! ## The bus wrappers (41_bus_wrappers.md)

Each command is one pick, whose micro-step the flag chooses, or a query of the lines (log entry 22); what is left to say
is which micro-step that is and whether a hazard follows it. -/

namespace Sys2Proof.Machine
open Sys2Proof.Claims

/-! ### Commands of one pick -/

section
variable {i : Instr} {p : Pick} {s : State} {k : Nat} {m : MicroStep} (hi : exec i s = command (seq [p]) s)
  (hp : p s.idle = (k, m)) (hprev : m.prevented s.idle = none)
include hi hp

include hprev in
theorem exec_of_pick (hc : (m.apply s.idle).contention = false) :
    exec i s = .next (logged k [m] (m.apply s.idle)) :=
  (oneStep_of_pick (u := m.apply) hi hp hprev rfl).completes hc

include hprev in
theorem exec_of_pick_of_hazard (hc : ¬ (m.apply s.idle).contention = false) :
    exec i s =
      .fault (.contention (logged k [m] { m.apply s.idle with position := 1, fault := some .contention })) :=
  (oneStep_of_pick (u := m.apply) hi hp hprev rfl).faults hc

/-- A command that only reads, logs or responds leaves the cells of a quiet state as they are. -/
theorem exec_of_inert_pick (hm : Inert m) (hs : Quiet s) : exec i s = .next (logged k [m] s.idle) := by
  obtain ⟨hprev, happly⟩ := hm s.idle
  have hnext := exec_of_pick hi hp hprev (by rw [happly]; exact hs)
  rwa [happly] at hnext

end

theorem answers_of_pick {i : Instr} {v : State → Response} (hi : ∀ s, exec i s = command (seq [answer v]) s)
    (hv : ∀ s, v s.idle = v s) : Answers i v := fun s hs => by
  rw [exec_of_inert_pick (hi s) rfl (inert_respond _) hs, hv]
  rfl

/-- A redundant call, with its optional warning (log entry 16). -/
theorem exec_of_redundant {i : Instr} {p : Pick} {s : State} (hi : exec i s = command (seq [p]) s)
    (hp : p s.idle = redundantStep s.idle) (hs : Quiet s) :
    exec i s = .next (logged 1 [.redundant (s.drawnBool 0)] s.idle) :=
  exec_of_inert_pick hi hp (fun _ => ⟨rfl, rfl⟩) hs

/-- A write kept back by the flag logs one error (R155, R157, R175). -/
theorem exec_of_notWritable {i : Instr} {p : Pick} {s : State} (hi : exec i s = command (seq [p]) s)
    (hp : p s.idle = (0, .log .errNotWritable)) (hs : Quiet s) :
    exec i s = .next (logged 0 [.log .errNotWritable] s.idle) :=
  exec_of_inert_pick hi hp (fun _ => ⟨rfl, rfl⟩) hs

/-! ### Bytes of an address -/

theorem high_mask_high {i : Nat} (hlow : ¬ i < 8) (hhigh : i < 16) : (0xFF00 : Addr).getLsbD i = true := by
  interval_cases i <;> rfl

theorem withLowByte_eq_append (v : Addr) (b : Byte) : withLowByte v b = v.extractLsb' 8 8 ++ b := by
  apply BitVec.eq_of_getLsbD_eq
  intro i hi
  simp only [withLowByte, BitVec.getLsbD_or, BitVec.getLsbD_and, BitVec.getLsbD_setWidth, BitVec.getLsbD_append,
    BitVec.getLsbD_extractLsb']
  by_cases h8 : i < 8
  · rw [high_mask_low i h8]
    simp [h8, hi]
  · have hback : 8 + (i - 8) = i := by omega
    have hbyte : i - 8 < 8 := by omega
    rw [high_mask_high h8 hi, BitVec.getLsbD_of_ge b i (by omega)]
    simp [h8, hback, hbyte]

/-- The port's address in the words of R157. -/
theorem ioAddress_eq_ioLatch (s : State) (p : Byte) : ioAddress s.params.ioHighByte s.ab.latch p = ioLatch s p := by
  unfold ioAddress ioLatch
  cases s.params.ioHighByte with
  | hold => exact withLowByte_eq_append _ _
  | zero => rfl

/-! ### Flags and lines (R152 to R154, R156, R172 to R174) -/

theorem reads_abRdaddr : Reads .abRdaddr 1 (fun s => .sampleAb (abShown s)) fun s => .word (abShown s) :=
  reads_of_query (value := fun s => s.abLines 0) (fun _ => rfl) (fun _ _ => ⟨rfl, rfl⟩) fun _ => rfl

theorem reads_abRdioaddr :
    Reads .abRdioaddr 1 (fun s => .sampleAb (abShown s)) fun s => .byte ((abShown s).extractLsb' 0 8) :=
  reads_of_query (value := fun s => s.abLines 0) (v := fun x => .byte (x.extractLsb' 0 8)) (fun _ => rfl)
    (fun _ _ => ⟨rfl, rfl⟩) fun _ => rfl

theorem reads_dbRd : Reads .dbRd 1 (fun s => .sampleDb (dbShown s)) fun s => .byte (dbShown s) :=
  reads_of_query (value := fun s => s.dbLines 0) (fun _ => rfl) (fun _ _ => ⟨rfl, rfl⟩) fun _ => rfl

/-- Settles O26: a flag is answered in one micro-step, the lines are a query. -/
theorem wrapperQueries : Obligations.WrapperQueries :=
  ⟨⟨coded_of_layout rfl, answers_of_pick (fun _ => rfl) fun _ => rfl⟩,
    ⟨coded_of_layout rfl, answers_of_pick (fun _ => rfl) fun _ => rfl⟩,
    ⟨coded_of_layout rfl, answers_of_pick (fun _ => rfl) fun _ => rfl⟩,
    ⟨coded_of_layout rfl, answers_of_pick (fun _ => rfl) fun _ => rfl⟩,
    ⟨coded_of_layout rfl, reads_abRdaddr⟩, ⟨coded_of_layout rfl, reads_abRdioaddr⟩, ⟨coded_of_layout rfl, reads_dbRd⟩⟩

/-! ### The diagnostic strings (R159, R176) -/

theorem binaryText_eq_map_testBit (v k : Nat) :
    binaryText v k = (List.range k).map fun i => if v.testBit (k - 1 - i) then '1' else '0' := by
  induction k with
  | zero => rfl
  | succ k ih =>
    rw [binaryText, ih, List.range_succ_eq_map, List.map_cons, List.map_map]
    congr 1
    · simp [Nat.testBit_eq_decide_div_mod_eq]
    · refine List.map_congr_left fun i _ => ?_
      have hi : k + 1 - 1 - (i + 1) = k - 1 - i := by omega
      simp only [Function.comp_apply, Nat.succ_eq_add_one, hi]

theorem binaryText_toNat {n : Nat} (v : BitVec n) : binaryText v.toNat n = bitChars v :=
  binaryText_eq_map_testBit _ _

theorem busText_eq_busString {n : Nat} (tag : String) (b : Bus n) (v : BitVec n) :
    busText tag.toList b v = busString tag b v := by
  rw [busText, binaryText_toNat]
  rfl

/-- A read whose answer looks also at a part of the state that the read leaves is a query of both. -/
theorem readStep_respond_eq_query {α β : Type} {k : Nat} {m : α → MicroStep} {value : State → α} (part : State → β)
    (hpart : ∀ s x, part (s.performed k false (m x)) = part s) (v : β → α → Response) (s : State) :
    (readStep k m value s >>= fun r => seq [respond (v (part r.2) r.1)] r.2) =
      query k (fun x : β × α => m x.2) (fun s => (part s, value s)) (fun x => v x.1 x.2) s := by
  unfold query readStep
  cases gap s with
  | error f => rfl
  | ok u =>
    simp only [ok_bind]
    cases h : perform k false (m (value u)) u with
    | error f => rfl
    | ok t =>
      obtain ⟨-, -, rfl⟩ := perform_ok_iff.1 h
      simp only [ok_bind, pure_eq_ok, hpart]

theorem abStateBody_respond_eq_query (s : State) :
    (abStateBody s >>= fun r => seq [respond (.text r.1)] r.2) =
      query 1 (fun x : Bus 16 × Addr => .sampleAb x.2) (fun s => (s.ab, s.abLines 0))
        (fun x => .text (busString "ADDR" x.1 x.2)) s := by
  rw [← readStep_respond_eq_query State.ab (fun _ _ => rfl) fun b x => .text (busString "ADDR" b x)]
  simp only [← busText_eq_busString]
  unfold abStateBody
  cases readStep 1 .sampleAb (fun s => s.abLines 0) s <;> rfl

theorem dbStateBody_respond_eq_query (s : State) :
    (dbStateBody s >>= fun r => seq [respond (.text r.1)] r.2) =
      query 1 (fun x : Bus 8 × Byte => .sampleDb x.2) (fun s => (s.db, s.dbLines 0))
        (fun x => .text (busString "DATA" x.1 x.2)) s := by
  rw [← readStep_respond_eq_query State.db (fun _ _ => rfl) fun b x => .text (busString "DATA" b x)]
  simp only [← busText_eq_busString]
  unfold dbStateBody
  cases readStep 1 .sampleDb (fun s => s.dbLines 0) s <;> rfl

theorem exec_abState_eq_query (s : State) :
    exec .abState s = command (query 1 (fun x : Bus 16 × Addr => .sampleAb x.2) (fun s => (s.ab, s.abLines 0))
      fun x => .text (busString "ADDR" x.1 x.2)) s :=
  congrArg (command · s) (funext abStateBody_respond_eq_query)

theorem reads_abState :
    Reads .abState 1 (fun s => .sampleAb (abShown s)) fun s => .text (busString "ADDR" s.ab (abShown s)) :=
  reads_of_query exec_abState_eq_query (fun _ _ => ⟨rfl, rfl⟩) fun _ => rfl

theorem exec_dbState_eq_query (s : State) :
    exec .dbState s = command (query 1 (fun x : Bus 8 × Byte => .sampleDb x.2) (fun s => (s.db, s.dbLines 0))
      fun x => .text (busString "DATA" x.1 x.2)) s :=
  congrArg (command · s) (funext dbStateBody_respond_eq_query)

theorem reads_dbState :
    Reads .dbState 1 (fun s => .sampleDb (dbShown s)) fun s => .text (busString "DATA" s.db (dbShown s)) :=
  reads_of_query exec_dbState_eq_query (fun _ _ => ⟨rfl, rfl⟩) fun _ => rfl

/-- Settles O27: the string is a query of the lines and of the bus, which the sample leaves as it is. -/
theorem busStrings : Obligations.BusStrings :=
  ⟨⟨coded_of_layout rfl, reads_abState⟩, ⟨coded_of_layout rfl, reads_dbState⟩⟩

/-! ### Mask and flag together (R150, R151, R170, R171) -/

section
variable {s : State} (hs : Quiet s)
include hs

theorem contention_abSetReadable : (MicroStep.abSetReadable.apply s.idle).contention = false :=
  (contention_congr rfl rfl rfl rfl rfl).trans ((contention_abMask_iff hs 0).2 (.inl rfl))

theorem contention_abSetWritable_iff :
    (MicroStep.abSetWritable.apply s.idle).contention = false ↔ s.busGranted = true := by
  have hmask : (MicroStep.abSetWritable.apply s.idle).contention =
      { s.idle with ab := { s.ab with mask := 0xFFFF } }.contention := contention_congr rfl rfl rfl rfl rfl
  rw [hmask, contention_abMask_iff hs]
  exact or_iff_right (by decide)

theorem contention_dbSetReadable : (MicroStep.dbSetReadable.apply s.idle).contention = false :=
  (contention_congr rfl rfl rfl rfl rfl).trans ((contention_dbMask_iff hs 0).2 (.inl rfl))

theorem contention_dbSetWritable_iff :
    (MicroStep.dbSetWritable.apply s.idle).contention = false ↔
      s.busGranted = true ∧ s.asserted .rd = false ∧ s.asserted .ioIn = false := by
  have hmask : (MicroStep.dbSetWritable.apply s.idle).contention =
      { s.idle with db := { s.db with mask := 0xFF } }.contention := contention_congr rfl rfl rfl rfl rfl
  rw [hmask, contention_dbMask_iff hs]
  exact or_iff_right (by decide)

end

section
variable {s : State}

theorem abSetrBody_of_writable (h : s.ab.writable = true) : abSetrBody s = (0, .abSetReadable) := if_pos h
theorem abSetrBody_of_readable (h : s.ab.writable = false) : abSetrBody s = redundantStep s := by simp [abSetrBody, h]
theorem abSetwBody_of_writable (h : s.ab.writable = true) : abSetwBody s = redundantStep s := if_pos h
theorem abSetwBody_of_readable (h : s.ab.writable = false) : abSetwBody s = (0, .abSetWritable) := by
  simp [abSetwBody, h]

theorem dbSetrBody_of_writable (h : s.db.writable = true) : dbSetrBody s = (0, .dbSetReadable) := if_pos h
theorem dbSetrBody_of_readable (h : s.db.writable = false) : dbSetrBody s = redundantStep s := by simp [dbSetrBody, h]
theorem dbSetwBody_of_writable (h : s.db.writable = true) : dbSetwBody s = redundantStep s := if_pos h
theorem dbSetwBody_of_readable (h : s.db.writable = false) : dbSetwBody s = (0, .dbSetWritable) := by
  simp [dbSetwBody, h]

theorem abWraddrBody_of_writable (h : s.ab.writable = true) (a : Addr) : abWraddrBody a s = (0, .abLatch a) := if_pos h
theorem abWraddrBody_of_readable (h : s.ab.writable = false) (a : Addr) :
    abWraddrBody a s = (0, .log .errNotWritable) := by simp [abWraddrBody, h]
theorem abWrioaddrBody_of_writable (h : s.ab.writable = true) (p : Byte) :
    abWrioaddrBody p s = (0, .abLatch (ioLatch s p)) := by simp [abWrioaddrBody, h, ioAddress_eq_ioLatch]
theorem abWrioaddrBody_of_readable (h : s.ab.writable = false) (p : Byte) :
    abWrioaddrBody p s = (0, .log .errNotWritable) := by simp [abWrioaddrBody, h]
theorem dbWrBody_of_writable (h : s.db.writable = true) (d : Byte) : dbWrBody d s = (0, .dbLatch d) := if_pos h
theorem dbWrBody_of_readable (h : s.db.writable = false) (d : Byte) :
    dbWrBody d s = (0, .log .errNotWritable) := by simp [dbWrBody, h]

end

/-- Settles O28: the flag chooses the switch or the redundant call; a hazard follows only the switch to writable, where
the bus is not granted. -/
theorem addressBusDirection : Obligations.AddressBusDirection := by
  refine ⟨coded_of_layout rfl, coded_of_layout rfl, fun s hs => ⟨fun h => ?_, fun h => ?_, fun h => ?_,
    fun h hg => ?_, fun h hg => ?_⟩⟩
  · exact exec_of_redundant rfl (abSetrBody_of_readable (s := s.idle) h) hs
  · exact exec_of_pick rfl (abSetrBody_of_writable (s := s.idle) h) rfl (contention_abSetReadable hs)
  · exact exec_of_redundant rfl (abSetwBody_of_writable (s := s.idle) h) hs
  · exact exec_of_pick rfl (abSetwBody_of_readable (s := s.idle) h) rfl ((contention_abSetWritable_iff hs).2 hg)
  · refine exec_of_pick_of_hazard rfl (abSetwBody_of_readable (s := s.idle) h) rfl fun hc => ?_
    exact absurd ((contention_abSetWritable_iff hs).1 hc) (by simp [hg])

/-- Settles O29: likewise, and the switch to writable is a hazard also while a read strobe is asserted. -/
theorem dataBusDirection : Obligations.DataBusDirection := by
  refine ⟨coded_of_layout rfl, coded_of_layout rfl, fun s hs => ⟨fun h => ?_, fun h => ?_, fun h => ?_,
    fun h hg hr hi => ?_, fun h hhazard => ?_⟩⟩
  · exact exec_of_redundant rfl (dbSetrBody_of_readable (s := s.idle) h) hs
  · exact exec_of_pick rfl (dbSetrBody_of_writable (s := s.idle) h) rfl (contention_dbSetReadable hs)
  · exact exec_of_redundant rfl (dbSetwBody_of_writable (s := s.idle) h) hs
  · exact exec_of_pick rfl (dbSetwBody_of_readable (s := s.idle) h) rfl
      ((contention_dbSetWritable_iff hs).2 ⟨hg, hr, hi⟩)
  · refine exec_of_pick_of_hazard rfl (dbSetwBody_of_readable (s := s.idle) h) rfl fun hc => ?_
    obtain ⟨hg, hr, hi⟩ := (contention_dbSetWritable_iff hs).1 hc
    simp [hg, hr, hi] at hhazard

/-! ### Latch writes (R155, R157, R158, R175) -/

theorem exec_abWrref {s : State} (hs : Quiet s) (r : Byte) :
    exec (.abWrref r) s = .next (logged 0 [.abLatch (s.ab.latch.extractLsb' 8 8 ++ r)]
      { s.idle with ab := { s.ab with latch := s.ab.latch.extractLsb' 8 8 ++ r } }) := by
  rw [← withLowByte_eq_append]
  exact exec_of_pick rfl rfl rfl (contention_abLatch hs _)

/-- Settles O30: the flag chooses the write or the error; a latch write makes no hazard. -/
theorem wrapperWrites : Obligations.WrapperWrites := fun s hs =>
  ⟨fun a => ⟨coded_of_layout rfl,
      fun h => exec_of_notWritable rfl (abWraddrBody_of_readable (s := s.idle) h a) hs,
      fun h => exec_of_pick rfl (abWraddrBody_of_writable (s := s.idle) h a) rfl (contention_abLatch hs a)⟩,
    fun p => ⟨coded_of_layout rfl,
      fun h => exec_of_notWritable rfl (abWrioaddrBody_of_readable (s := s.idle) h p) hs,
      fun h => exec_of_pick rfl (abWrioaddrBody_of_writable (s := s.idle) h p) rfl (contention_abLatch hs _)⟩,
    fun d => ⟨coded_of_layout rfl,
      fun h => exec_of_notWritable rfl (dbWrBody_of_readable (s := s.idle) h d) hs,
      fun h => exec_of_pick rfl (dbWrBody_of_writable (s := s.idle) h d) rfl (contention_dbLatch hs d)⟩,
    fun r => ⟨coded_of_layout rfl, exec_abWrref hs r⟩⟩

end Sys2Proof.Machine

/-! ## Mastership, WAIT and the controller's queries (42_mastership.md)

The commands of one micro-step come first. BC.TESTON and BC.TESTOFF are sequences with no tick between their micro-steps
but before BC.TESTOFF's disarming of refresh; `seq_of_undisturbed` runs such a stretch, and `Aloof`, `Holding` and
`Releasing` are the reasons that nothing faults in it. -/

namespace Sys2Proof.Machine
open Sys2Proof.Claims

/-! ### Redundant calls and queries -/

/-- Settles O32: either call is one warning. -/
theorem redundantMastership : Obligations.RedundantMastership := by
  refine fun s hs => ⟨fun hm => ?_, fun hm => ?_⟩
  · have hwarn : exec .bcTeston s = command (seq [logStep .wrnRedundant]) s := by
      have hm' : s.idle.mutable = true := hm
      simp only [exec, execBcTeston, command, hm', if_true]
    exact exec_of_inert_pick hwarn rfl (fun _ => ⟨rfl, rfl⟩) hs
  · have hwarn : exec .bcTestoff s = command (seq [logStep .wrnRedundant]) s := by
      simp only [exec, execBcTestoff, command, testoffBody_of_immutable (s := s.idle) hm]
    exact exec_of_inert_pick hwarn rfl (fun _ => ⟨rfl, rfl⟩) hs

theorem versionText_eq (p : Params) :
    versionText p = decimal p.versionMajor ++ ['.'] ++ decimal p.versionMinor ++ ['.'] ++
      decimal p.versionRevision := by
  simp [versionText, decimalText, decimal, Nat.repr]

/-- Settles O36: each answers a cell or a parameter in its one micro-step. -/
theorem controllerAndVersionQueries : Obligations.ControllerAndVersionQueries :=
  ⟨⟨coded_of_layout rfl, answers_of_pick (fun _ => rfl) fun _ => rfl⟩,
    ⟨coded_of_layout rfl, answers_of_pick (fun _ => rfl) fun _ => rfl⟩,
    ⟨coded_of_layout rfl, answers_of_pick (fun _ => rfl) fun _ => rfl⟩,
    ⟨coded_of_layout rfl, answers_of_pick (fun _ => rfl) fun _ => rfl⟩,
    ⟨coded_of_layout rfl, by
      simp only [← versionText_eq]
      exact answers_of_pick (fun _ => rfl) fun _ => rfl⟩⟩

/-! ### Lines that are not shared -/

theorem sharedOut_setLine {n : Signal} (hn : n ∉ sharedSignals) (l : Line) (s : State) :
    (s.setLine n l).sharedOut = s.sharedOut := by
  have hline (k : Signal) (hk : k ∈ sharedSignals) : (s.setLine n l).line k = s.line k :=
    State.line_setLine_other l s fun h => hn (h ▸ hk)
  rw [Bool.eq_iff_iff]
  simp only [State.sharedOut, List.any_eq_true]
  exact exists_congr fun k => and_congr_right fun hk => by rw [hline k hk]

/-- INT and WAIT play no part in a hazard (60_exceptions.md R334). -/
theorem contention_setLine_of_unshared {n : Signal} (hn : n ∉ sharedSignals) (ht : n ≠ .test) (l : Line) (s : State) :
    (s.setLine n l).contention = s.contention := by
  have hne {k : Signal} (hk : k ∈ sharedSignals) : k ≠ n := fun h => hn (h ▸ hk)
  simp only [State.contention, sharedOut_setLine hn, State.asserted_setLine_other l s (hne (k := .rd) (by decide)),
    State.asserted_setLine_other l s (hne (k := .ioIn) (by decide)), State.setLine_busGranted, ht, false_and, if_false,
    State.setLine_ab, State.setLine_db, State.setLine_intAckDrive]

/-! ### WAIT (R195, R196) -/

theorem waitActive_iff {s : State} : s.waitActive = true ↔ s.signals.wait = ⟨.output, .low⟩ := by
  generalize hw : s.signals.wait = w
  obtain ⟨d, l⟩ := w
  simp [State.waitActive, State.line, Signals.get, hw]

theorem gatedOut_iff {s : State} : s.gatedOut = true ↔ s.params.gateIntWait = true ∧ s.mutable = false := by
  simp [State.gatedOut]

/-- What BC.WAITON does. -/
def waitonPick : Pick := fun s =>
  if s.gatedOut then (0, .log .errNotMutable)
  else if s.waitActive then (0, .log .wrnRedundant)
  else assertLine .wait s

/-- What BC.WAITOFF does. -/
def waitoffPick : Pick := fun s => if s.waitActive then deassertLine .wait s else (0, .log .wrnRedundant)

theorem exec_bcWaiton (s : State) : exec .bcWaiton s = command (seq [waitonPick]) s := rfl
theorem exec_bcWaitoff (s : State) : exec .bcWaitoff s = command (seq [waitoffPick]) s := rfl

/-- Settles O35: the gate and WAIT's cell choose the micro-step, and no hazard can follow it. -/
theorem waitCommands : Obligations.WaitCommands := by
  refine ⟨coded_of_layout rfl, coded_of_layout rfl, fun s hs => ?_⟩
  have safe (l : Line) : (s.idle.setLine .wait l).contention = false :=
    (contention_setLine_of_unshared (by decide) (by decide) l _).trans hs
  have inert (k : LogKind) : Inert (.log k) := fun _ => ⟨rfl, rfl⟩
  have gate : s.idle.gatedOut = true ↔ s.params.gateIntWait = true ∧ s.mutable = false := gatedOut_iff
  have active : s.idle.waitActive = true ↔ s.signals.wait = ⟨.output, .low⟩ := waitActive_iff
  refine ⟨fun hg => ?_, fun hg hw => ?_, fun hg hw => ?_, fun hw => ?_, fun hw => ?_⟩
  · have hp : waitonPick s.idle = (0, .log .errNotMutable) := if_pos (gate.2 hg)
    exact exec_of_inert_pick (exec_bcWaiton s) hp (inert _) hs
  · have hp : waitonPick s.idle = (0, .log .wrnRedundant) :=
      (if_neg (mt gate.1 hg)).trans (if_pos (active.2 hw))
    exact exec_of_inert_pick (exec_bcWaiton s) hp (inert _) hs
  · have hp : waitonPick s.idle = (0, .driveOut .wait .low) :=
      (if_neg (mt gate.1 hg)).trans (if_neg (mt active.1 hw))
    exact exec_of_pick (exec_bcWaiton s) hp rfl (safe _)
  · have hp : waitoffPick s.idle = (0, .log .wrnRedundant) := if_neg (mt active.1 hw)
    exact exec_of_inert_pick (exec_bcWaitoff s) hp (inert _) hs
  · have hp : waitoffPick s.idle = (0, .setDir .wait .input) := if_pos (active.2 hw)
    have hlow : s.signals.wait.lvl = .low := congrArg Line.lvl hw
    have happly : (MicroStep.setDir .wait .input).apply s.idle =
        { s.idle with signals := { s.signals with wait := ⟨.input, .low⟩ } } := by rw [← hlow]; rfl
    rw [← happly]
    exact exec_of_pick (exec_bcWaitoff s) hp rfl (safe _)

/-! ### What a stretch without ticks leaves, exactly -/

/-- How many draws the picks take on the way. -/
def draws : List Pick → State → Nat
  | [], _ => 0
  | p :: ps, s => (p s).1 + draws ps (s.performed (p s).1 false (p s).2)

theorem picked_append (ps qs : List Pick) (s : State) : picked (ps ++ qs) s = picked ps s ++ picked qs (ran ps s) := by
  induction ps generalizing s with
  | nil => rfl
  | cons p ps ih => exact congrArg _ (ih _)

theorem draws_append (ps qs : List Pick) (s : State) : draws (ps ++ qs) s = draws ps s + draws qs (ran ps s) := by
  induction ps generalizing s with
  | nil => exact (Nat.zero_add _).symm
  | cons p ps ih => exact (congrArg _ (ih _)).trans (Nat.add_assoc _ _ _).symm

theorem ran_trace (ps : List Pick) (s : State) :
    (ran ps s).trace = s.trace ++ (picked ps s).map fun m => ⟨.foreground, m⟩ := by
  induction ps generalizing s with
  | nil => exact (List.append_nil _).symm
  | cons p ps ih => simp [ran, picked, ih]

theorem ran_inputs (ps : List Pick) (s : State) : (ran ps s).inputs = s.inputs.drop (draws ps s) := by
  induction ps generalizing s with
  | nil => rfl
  | cons p ps ih => simp [ran, draws, ih, List.drop_drop]

theorem ran_drawCount (ps : List Pick) (s : State) : (ran ps s).drawCount = s.drawCount + draws ps s := by
  induction ps generalizing s with
  | nil => rfl
  | cons p ps ih => simp [ran, draws, ih, Nat.add_assoc]

/-- What no micro-step writes, none of them writes. -/
theorem foldl_apply_leaves {β : Type} (f : State → β) (hf : ∀ (m : MicroStep) (s : State), f (m.apply s) = f s)
    (ms : List MicroStep) (s : State) : f (ms.foldl MicroStep.apply s) = f s := by
  induction ms generalizing s with
  | nil => rfl
  | cons m ms ih => exact (ih _).trans (hf m s)

/-- A stretch shows on the trace, takes its draws, and leaves in the cells what its micro-steps make of them. -/
theorem idle_ran (ps : List Pick) (s : State) :
    (ran ps s).idle = logged (draws ps s) (picked ps s) ((picked ps s).foldl MicroStep.apply s).idle := by
  have hinputs := foldl_apply_leaves State.inputs MicroStep.apply_inputs (picked ps s) s
  have hcount := foldl_apply_leaves State.drawCount MicroStep.apply_drawCount (picked ps s) s
  have htrace := foldl_apply_leaves State.trace MicroStep.apply_trace (picked ps s) s
  calc (ran ps s).idle
      = { (ran ps s).bare with
          inputs := (ran ps s).inputs, drawCount := (ran ps s).drawCount, trace := (ran ps s).trace } := rfl
    _ = logged (draws ps s) (picked ps s) ((picked ps s).foldl MicroStep.apply s).idle := by
        rw [bare_ran, ran_inputs, ran_drawCount, ran_trace, ← hinputs, ← hcount, ← htrace]
        rfl

theorem drawnBool_of_skipped {s t : State} {k : Nat} (hi : t.inputs = s.inputs.drop k)
    (hd : t.drawCount = s.drawCount + k) (j : Nat) : t.drawnBool j = s.drawnBool (k + j) := by
  simp [State.drawnBool, State.drawn, hi, hd, Nat.add_assoc]

/-! ### Why nothing faults in such a stretch -/

/-- Refresh is off, so that no tick can run, and no hazard stands for a foreground agent at rest. -/
structure Undisturbed (s : State) : Prop where
  disarmed : s.refreshEnabled = false
  quiet : Quiet s

theorem quiet_iff {s : State} :
    Quiet s ↔ (s.busGranted = false → s.ab.mask = 0 ∧ s.sharedOut = false ∧ s.db.mask = 0) ∧
      (s.db.mask ≠ 0 → s.asserted .rd = false ∧ s.asserted .ioIn = false) := contention_eq_false_iff (s := s.idle) rfl

/-- The exemption of R334 (c) only takes hazards away. -/
theorem contention_of_quiet {s : State} (h : Quiet s) : s.contention = false := by
  cases hi : s.intAckDrive with
  | false => exact (contention_congr (s := s.idle) (t := s) rfl rfl rfl rfl hi).trans h
  | true =>
    obtain ⟨hgrant, hread⟩ := quiet_iff.1 h
    simp only [State.contention, hi, Bool.or_eq_false_iff, Bool.and_eq_false_iff, Bool.not_eq_false',
      bne_eq_false_iff_eq, Bool.not_true, or_true, and_true]
    refine ⟨?_, Classical.or_iff_not_imp_left.2 hread⟩
    cases hg : s.busGranted with
    | true => exact .inl rfl
    | false =>
      obtain ⟨hab, hshared, -⟩ := hgrant hg
      exact .inr ⟨hab, hshared⟩

theorem Undisturbed.gap {s : State} (h : Undisturbed s) : gap s = .ok s :=
  gap_of_disabled (by simp [State.tickEnabled, h.disarmed])

/-- Where `P` holds the pick is not prevented, and it keeps `P`. -/
def Proceeds (P : State → Prop) (p : Pick) : Prop := ∀ s, P s → (p s).2.prevented s = none ∧ P ((p s).2.apply s)

/-- Under a condition that its picks keep, a stretch is performed to its end, with no tick in it. -/
theorem seq_of_undisturbed {P : State → Prop} (hcells : OfCells P) (hP : ∀ s, P s → Undisturbed s) {ps : List Pick}
    (hps : ∀ p ∈ ps, Proceeds P p) {s : State} (h : P s) : seq ps s = .ok (ran ps s) ∧ P (ran ps s) := by
  induction ps generalizing s with
  | nil => exact ⟨rfl, h⟩
  | cons p ps ih =>
    obtain ⟨hprev, happly⟩ := hps p List.mem_cons_self s h
    have hnext : P (s.performed (p s).1 false (p s).2) := hcells.of_bare_eq (State.bare_performed _ _ _ s) happly
    rw [seq_cons_of_safe (hP s h).gap hprev (contention_of_quiet (hP _ hnext).quiet)]
    exact ih (fun q hq => hps q (List.mem_cons_of_mem _ hq)) hnext

/-- BMC drives no shared line, and refresh is off: whether the bus is granted plays no part. -/
structure Aloof (s : State) : Prop where
  disarmed : s.refreshEnabled = false
  abMask : s.ab.mask = 0
  dbMask : s.db.mask = 0
  unshared : s.sharedOut = false

theorem Aloof.undisturbed {s : State} (h : Aloof s) : Undisturbed s :=
  ⟨h.disarmed, quiet_iff.2 ⟨fun _ => ⟨h.abMask, h.unshared, h.dbMask⟩, fun hd => absurd h.dbMask hd⟩⟩

theorem aloof_ofCells : OfCells Aloof := fun _ =>
  ⟨fun ⟨hr, ha, hd, hs⟩ => ⟨hr, ha, hd, hs⟩, fun ⟨hr, ha, hd, hs⟩ => ⟨hr, ha, hd, hs⟩⟩

theorem Aloof.setLine {s : State} (h : Aloof s) {n : Signal} (hn : n ∉ sharedSignals) (l : Line) :
    Aloof (s.setLine n l) := ⟨h.disarmed, h.abMask, h.dbMask, (sharedOut_setLine hn l s).trans h.unshared⟩

theorem Aloof.grant {s : State} (h : Aloof s) (b : Bool) : Aloof ((MicroStep.grant b).apply s) :=
  ⟨h.disarmed, h.abMask, h.dbMask, h.unshared⟩

/-- The bus is granted, the data bus not driven, and refresh is off. -/
structure Holding (s : State) : Prop where
  disarmed : s.refreshEnabled = false
  granted : Granted s
  dbMask : s.db.mask = 0

theorem Holding.undisturbed {s : State} (h : Holding s) : Undisturbed s :=
  ⟨h.disarmed, no_contention_of_granted (s := s.idle) h.granted h.dbMask⟩

theorem holding_ofCells : OfCells Holding := fun _ => ⟨fun ⟨hr, hg, hd⟩ => ⟨hr, hg, hd⟩, fun ⟨hr, hg, hd⟩ => ⟨hr, hg, hd⟩⟩

/-- The micro-steps of BC.TESTON between the grant and the arming of refresh. -/
def takesLine : MicroStep → Bool
  | .driveOut n _ => n != .test
  | .abSetWritable | .dbSetReadable | .redundant _ | .setMutable _ => true
  | _ => false

theorem Holding.apply {s : State} (h : Holding s) {m : MicroStep} (hm : takesLine m = true) :
    m.prevented s = none ∧ Holding (m.apply s) := by
  obtain ⟨hr, hg, hd⟩ := h
  cases m with
  | driveOut n l => exact ⟨rfl, hr, apply_granted (m := .driveOut n l) hm hg, hd⟩
  | dbSetReadable => exact ⟨rfl, hr, hg, rfl⟩
  | abSetWritable | redundant | setMutable => exact ⟨rfl, hr, hg, hd⟩
  | _ => cases hm

theorem proceeds_of_takesLine {p : Pick} (hp : ∀ s, takesLine (p s).2 = true) : Proceeds Holding p :=
  fun s hs => hs.apply (hp s)

/-! ### BC.TESTON from Immutable (R191) -/

/-- BC.TESTON up to the grant. -/
def requestPicks : List Pick := [act .check, assertLine .test, hold .tSettle, grantPick]

/-- From the grant to `mutable`. -/
def takePicks : List Pick := takeLines ++ [act (.setMutable true)]

theorem exec_bcTeston_eq {s : State} (hm : s.mutable = false) :
    exec .bcTeston s = command (seq ((requestPicks ++ takePicks) ++ armPicks s)) s := exec_bcTeston_of_immutable hm

theorem proceeds_requestPicks : ∀ p ∈ requestPicks, Proceeds Aloof p := by
  simp only [requestPicks, List.forall_mem_cons, List.not_mem_nil, false_implies, implies_true, and_true]
  exact ⟨fun _ h => ⟨rfl, h⟩, fun _ h => ⟨rfl, h.setLine (by decide) _⟩, fun _ h => ⟨rfl, h⟩,
    fun _ h => ⟨rfl, h.grant _⟩⟩

theorem proceeds_takePicks : ∀ p ∈ takePicks, Proceeds Holding p := by
  have hab : Proceeds Holding abSetwBody := proceeds_of_takesLine fun s => by unfold abSetwBody; split <;> rfl
  have hdb : Proceeds Holding dbSetrBody := proceeds_of_takesLine fun s => by unfold dbSetrBody; split <;> rfl
  have hdrive {n : Signal} (hn : n ≠ .test) : Proceeds Holding (driveSafe n) :=
    proceeds_of_takesLine fun _ => by simpa [driveSafe, act, takesLine] using hn
  have hmut : Proceeds Holding (act (.setMutable true)) := proceeds_of_takesLine fun _ => rfl
  simp [takePicks, takeLines, hab, hdb, hdrive, hmut]

/-- The bus is requested and taken with no fault on the way. -/
theorem seq_takes {s : State} (h : Aloof s) :
    seq (requestPicks ++ takePicks) s = .ok (ran (requestPicks ++ takePicks) s) ∧
      Holding (ran (requestPicks ++ takePicks) s) := by
  obtain ⟨hreq, aloof⟩ := seq_of_undisturbed aloof_ofCells (fun _ => Aloof.undisturbed) proceeds_requestPicks h
  have granted : Holding (ran requestPicks s) := ⟨aloof.disarmed, rfl, aloof.dbMask⟩
  rw [seq_append, hreq, ok_bind, ran_append]
  exact seq_of_undisturbed holding_ofCells (fun _ => Holding.undisturbed) proceeds_takePicks granted

/-- The micro-steps of BC.TESTON before the arming of refresh. -/
def unarmedSteps (s : State) : List MicroStep :=
  [.check, .driveOut .test .low, .hold .tSettle s.params.timing.tSettle, .grant (s.drawnBool 0), .abSetWritable,
    .redundant (s.drawnBool 1), .driveOut .ras .high, .driveOut .cas .high, .driveOut .mux .low,
    .driveOut .rd .high, .driveOut .wr .high, .driveOut .ioIn .high, .driveOut .ioOut .high, .setMutable true]

/-- BC.TESTON's last micro-step, where a refresh timer mode was configured (R266). -/
def armSteps (s : State) : List MicroStep := if s.refreshConfigured then [.setRefresh true] else []

theorem takeSteps_eq (s : State) : takeSteps s = unarmedSteps s ++ armSteps s := by
  cases h : s.refreshConfigured <;> simp [takeSteps, unarmedSteps, armSteps, h]

theorem picked_requestPicks (s : State) :
    picked requestPicks s =
      [.check, .driveOut .test .low, .hold .tSettle s.params.timing.tSettle, .grant (s.drawnBool 0)] ∧
    draws requestPicks s = 1 := by
  simp only [requestPicks, picked, draws]
  exact ⟨rfl, rfl⟩

theorem picked_takePicks {s u : State} (ha : u.ab.writable = false) (hd : u.db.writable = false)
    (hi : u.inputs = s.inputs.drop 1) (hc : u.drawCount = s.drawCount + 1) :
    picked takePicks u =
      [.abSetWritable, .redundant (s.drawnBool 1), .driveOut .ras .high, .driveOut .cas .high, .driveOut .mux .low,
        .driveOut .rd .high, .driveOut .wr .high, .driveOut .ioIn .high, .driveOut .ioOut .high, .setMutable true] ∧
    draws takePicks u = 1 := by
  have hab : abSetwBody u = (0, .abSetWritable) := abSetwBody_of_readable ha
  have hdrawn : (u.performed 0 false .abSetWritable).drawnBool 0 = s.drawnBool 1 :=
    drawnBool_of_skipped (k := 1) hi hc 0
  have hdb : dbSetrBody (u.performed 0 false .abSetWritable) = (1, .redundant (s.drawnBool 1)) :=
    (dbSetrBody_of_readable (s := u.performed 0 false .abSetWritable) hd).trans (by rw [redundantStep, hdrawn])
  simp only [takePicks, takeLines, List.cons_append, List.nil_append, picked, draws, hab, hdb]
  exact ⟨rfl, rfl⟩

theorem picked_takes {s : State} (ha : s.ab.writable = false) (hd : s.db.writable = false) :
    picked (requestPicks ++ takePicks) s = unarmedSteps s ∧ draws (requestPicks ++ takePicks) s = 2 := by
  obtain ⟨hpicked, hdraws⟩ := picked_requestPicks s
  have hinputs := ran_inputs requestPicks s
  have hcount := ran_drawCount requestPicks s
  rw [hdraws] at hinputs hcount
  obtain ⟨hpicked', hdraws'⟩ := picked_takePicks (u := ran requestPicks s) ha hd hinputs hcount
  rw [picked_append, draws_append, hpicked, hpicked', hdraws, hdraws']
  exact ⟨rfl, rfl⟩

/-- Arming refresh on the bus just taken. -/
theorem seq_armPicks {s v : State} (h : Holding v) (hm : v.mutable = true)
    (hv : v.refreshConfigured = s.refreshConfigured) :
    seq (armPicks s) v = .ok (ran (armPicks s) v) ∧ picked (armPicks s) v = armSteps s ∧ draws (armPicks s) v = 0 := by
  unfold armPicks armSteps
  split
  · next hc =>
    have hpick : refonBody v = (0, .setRefresh true) := by simp [refonBody, hm, hv.trans hc, h.disarmed]
    have hsafe : (v.performed 0 false (.setRefresh true)).contention = false :=
      no_contention_of_granted h.granted h.dbMask
    simp only [picked, draws, hpick, seq_singleton, micro_of_gap h.undisturbed.gap, ran]
    exact ⟨perform_of_safe rfl hsafe, trivial, trivial⟩
  · exact ⟨rfl, rfl, rfl⟩

/-- How BC.TESTON leaves BMC (R191). -/
def busTaken (s : State) : State :=
  { s with
    signals := taken s.signals
    ab := { s.ab with mask := 0xFFFF, writable := true }
    db := { s.db with mask := 0x00, writable := false }
    mutable := true
    busGranted := true
    refreshEnabled := s.refreshConfigured
    memory := if s.drawnBool 0 then [] else s.memory }

/-- An Immutable machine with the invariant drives nothing shared. -/
theorem Inv.aloof {s : State} (h : Inv s) (hm : s.mutable = false) : Aloof s := by
  have hg : s.busGranted = false := Bool.eq_false_iff.2 fun hg => by simp [h.grantMutable hg] at hm
  have hr : s.refreshEnabled = false := Bool.eq_false_iff.2 fun hr => by simp [h.refreshMutable hr] at hm
  obtain ⟨ha, hs, hd⟩ := (contention_of_not_granted hg h.idleDrive).1 h.noContention
  exact ⟨hr, ha, hd, hs⟩

theorem foldl_unarmedSteps {s : State} (h : Aloof s) (hd : s.db.writable = false) :
    (unarmedSteps s).foldl MicroStep.apply s = { busTaken s with refreshEnabled := false } := by
  have hdb : { s.db with mask := 0x00, writable := false } = s.db := by rw [← h.dbMask, ← hd]
  rw [busTaken, hdb, ← h.disarmed]
  rfl

theorem foldl_armSteps (s : State) :
    (armSteps s).foldl MicroStep.apply { busTaken s with refreshEnabled := false } = busTaken s := by
  cases h : s.refreshConfigured <;> simp [armSteps, busTaken, MicroStep.apply, h]

theorem exec_bcTeston_takes {s : State} (hs : Inv s) (hm : s.mutable = false) :
    exec .bcTeston s = .next (logged 2 (takeSteps s) (busTaken s)) := by
  have aloof := hs.aloof hm
  obtain ⟨ha, hd⟩ := hs.immutableReadable hm
  obtain ⟨htake, held⟩ := seq_takes aloof
  obtain ⟨hpicked, hdraws⟩ := picked_takes ha hd
  have cells := bare_ran (requestPicks ++ takePicks) s
  rw [hpicked, foldl_unarmedSteps aloof hd] at cells
  have hconf := congrArg State.refreshConfigured cells
  obtain ⟨harm, hparm, hdarm⟩ := seq_armPicks (s := s) held (congrArg State.mutable cells) hconf
  have hidle := State.idle_eq_self hs.idlePosition hs.idleDrive
  have hbody : seq ((requestPicks ++ takePicks) ++ armPicks s) s.idle =
      .ok (ran ((requestPicks ++ takePicks) ++ armPicks s) s) := by
    rw [hidle, seq_append, htake, ok_bind, harm, ran_append (requestPicks ++ takePicks)]
  rw [exec_bcTeston_eq hm, command_of_ok hbody, idle_ran, picked_append, draws_append, hpicked, hparm, hdraws, hdarm,
    ← takeSteps_eq, takeSteps_eq, List.foldl_append, foldl_unarmedSteps aloof hd, foldl_armSteps]
  exact congrArg (fun u => Host.Outcome.next (logged 2 _ u)) (State.idle_eq_self hs.idlePosition hs.idleDrive)

/-- Settles O31: BMC drives nothing shared until the grant, and the bus is granted from then on, so that no micro-step
leaves a hazard. -/
theorem takeBus : Obligations.TakeBus := ⟨coded_of_layout rfl, fun _ => exec_bcTeston_takes⟩

/-! ### Nothing faults while the bus is given back -/

/-- Releasing a line other than TEST makes no hazard. -/
theorem quiet_release {s : State} (h : Quiet s) {n : Signal} (ht : n ≠ .test) (l : Level) :
    Quiet (s.setLine n ⟨.input, l⟩) := by
  have kept {k : Signal} (hk : ((s.setLine n ⟨.input, l⟩).line k).dir = .output) :
      (s.setLine n ⟨.input, l⟩).line k = s.line k := by
    refine State.line_setLine_other _ s ?_
    rintro rfl
    rw [State.line_setLine_same] at hk
    cases hk
  have unasserted {k : Signal} (hk : s.asserted k = false) : (s.setLine n ⟨.input, l⟩).asserted k = false := by
    rw [← Bool.not_eq_true, State.asserted_iff] at hk ⊢
    rintro ⟨hdir, hlvl⟩
    have hline := kept hdir
    rw [hline] at hdir hlvl
    exact hk ⟨hdir, hlvl⟩
  have unshared (hs : s.sharedOut = false) : (s.setLine n ⟨.input, l⟩).sharedOut = false := by
    simp only [State.sharedOut, List.any_eq_false, beq_iff_eq] at hs ⊢
    intro k hk hdir
    exact hs k hk (kept hdir ▸ hdir)
  have hgranted : (s.setLine n ⟨.input, l⟩).busGranted = s.busGranted := by simp [ht]
  obtain ⟨hgrant, hread⟩ := quiet_iff.1 h
  refine quiet_iff.2 ⟨fun hg => ?_, fun hd => ?_⟩
  · obtain ⟨hab, hshared, hdb⟩ := hgrant (hgranted.symm.trans hg)
    exact ⟨hab, unshared hshared, hdb⟩
  · obtain ⟨hrd, hin⟩ := hread hd
    exact ⟨unasserted hrd, unasserted hin⟩

/-- Refresh is off, no hazard stands, and no readable bus is left driven. -/
structure Releasing (s : State) : Prop where
  disarmed : s.refreshEnabled = false
  quiet : Quiet s
  undriven : ReadableUndriven s

theorem Releasing.undisturbed {s : State} (h : Releasing s) : Undisturbed s := ⟨h.disarmed, h.quiet⟩

theorem releasing_ofCells : OfCells Releasing := fun _ =>
  ⟨fun ⟨hr, hq, hu⟩ => ⟨hr, hq, hu⟩, fun ⟨hr, hq, hu⟩ => ⟨hr, hq, hu⟩⟩

/-- The micro-steps of BC.TESTOFF between the disarming of refresh and the release of TEST. -/
def givesLine : MicroStep → Bool
  | .setDir n d => d == .input && n != .test
  | .abSetReadable | .dbSetReadable | .redundant _ | .setMutable _ => true
  | _ => false

theorem Releasing.apply {s : State} (h : Releasing s) {m : MicroStep} (hm : givesLine m = true) :
    m.prevented s = none ∧ Releasing (m.apply s) := by
  obtain ⟨hr, hq, ⟨hab, hdb⟩⟩ := h
  cases m with
  | setDir n d =>
    obtain ⟨rfl, hn⟩ : d = .input ∧ n ≠ .test := by simpa [givesLine] using hm
    exact ⟨rfl, hr, quiet_release hq hn _, hab, hdb⟩
  | abSetReadable => exact ⟨rfl, hr, contention_abSetReadable hq, fun _ => rfl, hdb⟩
  | dbSetReadable => exact ⟨rfl, hr, contention_dbSetReadable hq, hab, fun _ => rfl⟩
  | redundant | setMutable => exact ⟨rfl, hr, hq, hab, hdb⟩
  | _ => cases hm

theorem proceeds_of_givesLine {p : Pick} (hp : ∀ s, givesLine (p s).2 = true) : Proceeds Releasing p :=
  fun s hs => hs.apply (hp s)

/-! ### BC.TESTOFF from Mutable (R193) -/

/-- Making both buses readable. -/
def readablePicks : List Pick := [dbSetrBody, abSetrBody]

/-- The release of TEST. -/
def partPicks : List Pick := [deassertLine .test, hold .tSettle]

theorem giveBackTail_eq : giveBackTail = (giveBackLines ++ readablePicks) ++ partPicks := rfl

theorem proceeds_giveBack : ∀ p ∈ giveBackLines ++ readablePicks, Proceeds Releasing p := by
  have hmut : Proceeds Releasing (act (.setMutable false)) := proceeds_of_givesLine fun _ => rfl
  have hrel {n : Signal} (hn : n ≠ .test) : Proceeds Releasing (release n) :=
    proceeds_of_givesLine fun _ => by simpa [release, act, givesLine] using hn
  have hdb : Proceeds Releasing dbSetrBody := proceeds_of_givesLine fun s => by unfold dbSetrBody; split <;> rfl
  have hab : Proceeds Releasing abSetrBody := proceeds_of_givesLine fun s => by unfold abSetrBody; split <;> rfl
  simp [giveBackLines, readablePicks, hmut, hrel, hdb, hab]

theorem proceeds_partPicks : ∀ p ∈ partPicks, Proceeds Aloof p := by
  simp only [partPicks, List.forall_mem_cons, List.not_mem_nil, false_implies, implies_true, and_true]
  exact ⟨fun _ h => ⟨rfl, h.setLine (by decide) _⟩, fun _ h => ⟨rfl, h⟩⟩

theorem readable_ran_readablePicks (s : State) : Readable (ran readablePicks s) ∧
    (ran readablePicks s).sharedOut = s.sharedOut := by
  have keeps (u : State) : (u.performed (abSetrBody u).1 false (abSetrBody u).2).db = u.db ∧
      (u.performed (abSetrBody u).1 false (abSetrBody u).2).sharedOut = u.sharedOut := by
    unfold abSetrBody
    split <;> exact ⟨rfl, rfl⟩
  have keeps' (u : State) : (u.performed (dbSetrBody u).1 false (dbSetrBody u).2).sharedOut = u.sharedOut := by
    unfold dbSetrBody
    split <;> rfl
  obtain ⟨hdb, hshared⟩ := keeps (s.performed (dbSetrBody s).1 false (dbSetrBody s).2)
  exact ⟨⟨abSetrBody_readable _, (congrArg Bus.writable hdb).trans (dbSetrBody_readable s)⟩,
    hshared.trans (keeps' s)⟩

theorem unshared_ran_giveBackLines (s : State) : (ran giveBackLines s).sharedOut = false := rfl

/-- When TEST is released, no shared-control line is driven, and neither is a bus. -/
theorem Releasing.aloof_ran {s : State} (h : Releasing (ran (giveBackLines ++ readablePicks) s)) :
    Aloof (ran (giveBackLines ++ readablePicks) s) := by
  rw [ran_append] at h ⊢
  obtain ⟨⟨hab, hdb⟩, hshared⟩ := readable_ran_readablePicks (ran giveBackLines s)
  exact ⟨h.disarmed, h.undriven.1 hab, h.undriven.2 hdb, hshared.trans (unshared_ran_giveBackLines s)⟩

/-- With refresh off, no hazard standing and no readable bus driven, everything after the disarming of refresh is
performed. -/
theorem seq_giveBackTail {s : State} (h : Releasing s) : seq giveBackTail s = .ok (ran giveBackTail s) := by
  obtain ⟨hseq, calm⟩ := seq_of_undisturbed releasing_ofCells (fun _ => Releasing.undisturbed) proceeds_giveBack h
  obtain ⟨hpart, -⟩ :=
    seq_of_undisturbed aloof_ofCells (fun _ => Aloof.undisturbed) proceeds_partPicks calm.aloof_ran
  rw [giveBackTail_eq, seq_append, hseq, ok_bind, hpart, ran_append (giveBackLines ++ readablePicks)]

theorem refoffBody_releasing {s : State} (hq : Quiet s) (hu : ReadableUndriven s) :
    (refoffBody s).2.prevented s = none ∧ Releasing ((refoffBody s).2.apply s) := by
  unfold refoffBody
  split
  · exact ⟨rfl, rfl, hq, hu⟩
  · next h => exact ⟨rfl, Bool.eq_false_iff.2 h, hq, hu⟩

/-- The disarming of refresh, with the ticks that come before it. -/
theorem seq_giveBack {s v : State} (hv : gap s = .ok v) (hq : Quiet v) (hu : ReadableUndriven v) :
    seq (refoffBody :: giveBackTail) s = .ok (ran (refoffBody :: giveBackTail) v) := by
  obtain ⟨hprev, happly⟩ := refoffBody_releasing hq hu
  have calm := releasing_ofCells.of_bare_eq (State.bare_performed (refoffBody v).1 false _ v) happly
  rw [seq_cons, micro_of_gap hv, perform_of_safe hprev (contention_of_quiet calm.quiet), ok_bind]
  exact seq_giveBackTail calm

theorem refoffBody_step (s : State) :
    (refoffBody s).2 = if s.refreshEnabled then .setRefresh false else .redundant (s.drawnBool 0) := by
  unfold refoffBody redundantStep
  split <;> rfl

theorem dbSetrBody_step (s : State) :
    (dbSetrBody s).2 = if s.db.writable then .dbSetReadable else .redundant (s.drawnBool 0) := by
  unfold dbSetrBody redundantStep
  split <;> rfl

theorem abSetrBody_step (s : State) :
    (abSetrBody s).2 = if s.ab.writable then .abSetReadable else .redundant (s.drawnBool 0) := by
  unfold abSetrBody redundantStep
  split <;> rfl

theorem picked_readablePicks (s : State) : ∃ b2 b3, picked readablePicks s =
    [if s.db.writable then .dbSetReadable else .redundant b2,
      if s.ab.writable then .abSetReadable else .redundant b3] := by
  have hab : (s.performed (dbSetrBody s).1 false (dbSetrBody s).2).ab = s.ab := by
    unfold dbSetrBody
    split <;> rfl
  refine ⟨s.drawnBool 0, (s.performed (dbSetrBody s).1 false (dbSetrBody s).2).drawnBool 0, ?_⟩
  rw [← dbSetrBody_step, ← hab, ← abSetrBody_step]
  rfl

theorem picked_giveBackTail (s : State) : ∃ b2 b3, picked giveBackTail s =
    [.setMutable false, .setDir .rd .input, .setDir .wr .input, .setDir .ioIn .input, .setDir .ioOut .input,
      .setDir .ras .input, .setDir .cas .input, .setDir .mux .input,
      if s.db.writable then .dbSetReadable else .redundant b2,
      if s.ab.writable then .abSetReadable else .redundant b3,
      .setDir .test .input, .hold .tSettle s.params.timing.tSettle] := by
  obtain ⟨b2, b3, hreadable⟩ := picked_readablePicks (ran giveBackLines s)
  have hparams := (does_ran (giveBackLines ++ readablePicks) s).params
  refine ⟨b2, b3, ?_⟩
  rw [giveBackTail_eq, picked_append, picked_append, hreadable, ← hparams]
  rfl

/-- The micro-steps of BC.TESTOFF after its check, the flags and parameters being those of `s`. -/
theorem picked_giveBack {s v : State} (hr : v.refreshEnabled = s.refreshEnabled) (ha : v.ab.writable = s.ab.writable)
    (hd : v.db.writable = s.db.writable) (hp : v.params = s.params) :
    ∃ b1 b2 b3, .check :: picked (refoffBody :: giveBackTail) v = giveBackSteps s b1 b2 b3 := by
  have hframe : (v.performed (refoffBody v).1 false (refoffBody v).2).ab = v.ab ∧
      (v.performed (refoffBody v).1 false (refoffBody v).2).db = v.db ∧
      (v.performed (refoffBody v).1 false (refoffBody v).2).params = v.params := by
    unfold refoffBody
    split <;> exact ⟨rfl, rfl, rfl⟩
  obtain ⟨hab, hdb, hparams⟩ := hframe
  obtain ⟨b2, b3, htail⟩ := picked_giveBackTail (v.performed (refoffBody v).1 false (refoffBody v).2)
  rw [hab, hdb, hparams, ha, hd, hp] at htail
  refine ⟨v.drawnBool 0, b2, b3, ?_⟩
  rw [picked, htail, refoffBody_step, hr]
  rfl

/-- How BC.TESTOFF leaves BMC, but for what ticks write (R193). -/
def busGivenBack (s : State) : State :=
  { s with
    signals := givenBack s.signals
    ab := { s.ab with mask := 0x0000, writable := false }
    db := { s.db with mask := 0x00, writable := false }
    mutable := false
    refreshEnabled := false
    busGranted := false }

theorem apply_refoffStep (s : State) (b : Bool) :
    (if s.refreshEnabled then .setRefresh false else .redundant b : MicroStep).apply s =
      { s with refreshEnabled := false } := by
  cases h : s.refreshEnabled with
  | true => rfl
  | false =>
    show s = { s with refreshEnabled := false }
    rw [← h]

theorem apply_dbReadableStep {s : State} {writable : Bool} (hw : s.db.writable = writable)
    (hu : writable = false → s.db.mask = 0) (b : Bool) :
    (if writable then .dbSetReadable else .redundant b : MicroStep).apply s =
      { s with db := { s.db with mask := 0x00, writable := false } } := by
  cases writable with
  | true => rfl
  | false =>
    show s = { s with db := { s.db with mask := 0x00, writable := false } }
    rw [← hu rfl, ← hw]

theorem apply_abReadableStep {s : State} {writable : Bool} (hw : s.ab.writable = writable)
    (hu : writable = false → s.ab.mask = 0) (b : Bool) :
    (if writable then .abSetReadable else .redundant b : MicroStep).apply s =
      { s with ab := { s.ab with mask := 0x0000, writable := false } } := by
  cases writable with
  | true => rfl
  | false =>
    show s = { s with ab := { s.ab with mask := 0x0000, writable := false } }
    rw [← hu rfl, ← hw]

theorem foldl_giveBackSteps {s : State} (hu : ReadableUndriven s) (b1 b2 b3 : Bool) :
    (giveBackSteps s b1 b2 b3).foldl MicroStep.apply s = busGivenBack s := by
  obtain ⟨hab, hdb⟩ := hu
  have hcheck : MicroStep.check.apply s = s := rfl
  simp only [giveBackSteps, List.foldl_cons, List.foldl_nil, hcheck]
  rw [apply_refoffStep, apply_dbReadableStep (writable := s.db.writable),
    apply_abReadableStep (writable := s.ab.writable)]
  · rfl
  · rfl
  · exact hab
  · rfl
  · exact hdb

theorem quiet_ofCells : OfCells Quiet := fun s => by
  rw [Quiet, contention_congr (s := s.idle) (t := s.bare.idle) rfl rfl rfl rfl rfl]

theorem TicksOnly.readableUndriven {s t : State} (h : TicksOnly s t) (hu : ReadableUndriven s) :
    ReadableUndriven t := by
  unfold ReadableUndriven
  rw [h.abWritable, h.abMask, h.db]
  exact hu

/-- BC.TESTOFF's body: ticks can come before the disarming of refresh and nowhere else. -/
theorem testoffBody_gives {s : State} (hp : s.position = 0) (hq : Quiet s) (hm : s.mutable = true) (ht : TickReady s)
    (hu : ReadableUndriven s) : ∃ (t : State) (b1 b2 b3 : Bool), testoffBody s = .ok t ∧
      Does s t (giveBackSteps s b1 b2 b3) ∧ (s.refreshEnabled = false → t.bare = (busGivenBack s).bare) := by
  have hquiet : Quiet (s.performed 0 false .check) := quiet_ofCells.of_bare_eq (State.bare_performed 0 false _ s) hq
  have calm := contention_of_quiet hquiet
  have hready : TickReady (s.performed 0 false .check) := ht
  have hcheck : seq (act .check :: refoffBody :: giveBackTail) s =
      seq (refoffBody :: giveBackTail) (s.performed 0 false .check) :=
    seq_cons_of_safe (gap_of_start hp) rfl calm
  obtain ⟨v, hv⟩ := gap_succeeds_of_tickReady calm hready
  have only := gap_ok hv
  have hquiet' : Quiet v := quiet_of_noAckDrive only.intAckDrive (only.contention.trans calm)
  obtain ⟨b1, b2, b3, hsteps⟩ := picked_giveBack (s := s) only.refreshEnabled only.abWritable
    (congrArg Bus.writable only.db) only.params
  refine ⟨ran (refoffBody :: giveBackTail) v, b1, b2, b3, ?_, ?_, fun hoff => ?_⟩
  · rw [testoffBody_of_mutable hm, hcheck]
    exact seq_giveBack hv hquiet' (only.readableUndriven hu)
  · rw [← hsteps]
    have hticks : Does (s.performed 0 false .check) v [] := does_gap hm hv
    exact (does_performed 0 false .check s).trans (hticks.trans (does_ran _ v))
  · have hstill : gap (s.performed 0 false .check) = .ok (s.performed 0 false .check) :=
      gap_of_disabled (by simp [State.tickEnabled, MicroStep.apply, hoff])
    obtain rfl : s.performed 0 false .check = v := Except.ok.inj (hstill.symm.trans hv)
    rw [bare_ran, ← foldl_giveBackSteps hu b1 b2 b3, ← hsteps, List.foldl_cons]
    exact bare_foldl_apply _ (State.bare_performed 0 false .check s)

/-- Settles O33: with no readable bus driven the releases make no hazard, and the cells are those of `busGivenBack` up to
what the ticks before the disarming wrote, exactly where there are none. -/
theorem giveBusBack : Obligations.GiveBusBack := by
  refine ⟨coded_of_layout rfl, fun s hs hm ht hu => ?_⟩
  have hidle := State.idle_eq_self hs.idlePosition hs.idleDrive
  have hidle' : (busGivenBack s).idle = busGivenBack s := State.idle_eq_self hs.idlePosition hs.idleDrive
  obtain ⟨t, b1, b2, b3, hbody, hdoes, hexact⟩ :=
    testoffBody_gives hs.idlePosition (quiet_of_noAckDrive hs.idleDrive hs.noContention) hm ht hu
  have hcells : t.bare.sansTicks = (busGivenBack s).bare.sansTicks := by
    rw [← foldl_giveBackSteps hu b1 b2 b3]
    exact hdoes.cells
  refine ⟨t.idle, b1, b2, b3, command_of_ok (hidle.symm ▸ hbody), hdoes.foregroundSteps, ?_, fun hoff => ?_⟩
  · have hleaves : Leaves s (busGivenBack s).idle t.idle := leaves_of_bare hcells hexact
    rwa [hidle'] at hleaves
  · have same {β : Type} (f : State → β) := congrArg f (hexact hoff)
    exact ⟨same fun u => u.signals.ras.lvl, same fun u => u.ab.latch, same State.refreshRow⟩

/-- Settles O34: the bus just taken is one that BC.TESTOFF gives back, and INT and WAIT were inputs before. -/
theorem takeAndGiveBack : Obligations.TakeAndGiveBack := by
  intro s hs hm hwait hint
  have htake := exec_bcTeston_takes hs hm
  have hundriven : ReadableUndriven (logged 2 (takeSteps s) (busTaken s)) :=
    ⟨fun h => absurd h.symm Bool.false_ne_true, fun _ => rfl⟩
  obtain ⟨u, -, -, -, hgive, -, ⟨hcells, -⟩, -⟩ :=
    giveBusBack.2 _ (exec_keeps_inv hs htake) rfl (fun _ => rfl) hundriven
  have same {β : Type} (f : State → β) := congrArg f hcells
  obtain ⟨hsys, hack⟩ := hs.inputOnlyIn
  refine ⟨_, u, htake, hgive, same fun v => v.ab.mask, same fun v => v.ab.writable, same fun v => v.db.mask,
    same fun v => v.db.writable, fun n => ?_, same State.mutable, same State.refreshEnabled, same State.busGranted⟩
  have hdir := same fun v => (v.line n).dir
  cases n with
  | int => exact hdir.trans hint
  | wait => exact hdir.trans hwait
  | sysRes => exact hdir.trans hsys
  | intAck => exact hdir.trans hack
  | _ => exact hdir

end Sys2Proof.Machine

/-! ## Cycles that are not run (43_bus_cycles.md R224, R229 to R235)

While Immutable a cycle is one error log, so every command of this chapter is a list of logs and a response: micro-steps
that change no cell. A bulk command whose contract check fails, or whose allocation fails, is such a list too. -/

namespace Sys2Proof.Machine
open Sys2Proof.Claims

/-! ### Micro-steps that change no cell -/

theorem inert_log (k : LogKind) : Inert (.log k) := fun _ => ⟨rfl, rfl⟩

theorem undisturbed_ofCells : OfCells Undisturbed := fun s =>
  ⟨fun ⟨hr, hq⟩ => ⟨hr, (quiet_ofCells s).1 hq⟩, fun ⟨hr, hq⟩ => ⟨hr, (quiet_ofCells s).2 hq⟩⟩

theorem picked_map_act (ms : List MicroStep) (s : State) : picked (ms.map act) s = ms := by
  induction ms generalizing s with
  | nil => rfl
  | cons m ms ih => exact congrArg (m :: ·) (ih _)

theorem draws_map_act (ms : List MicroStep) (s : State) : draws (ms.map act) s = 0 := by
  induction ms generalizing s with
  | nil => rfl
  | cons m ms ih => exact (Nat.zero_add _).trans (ih _)

theorem foldl_apply_of_inert {ms : List MicroStep} (h : ∀ m ∈ ms, Inert m) (s : State) :
    ms.foldl MicroStep.apply s = s := by
  induction ms with
  | nil => rfl
  | cons m ms ih =>
    rw [List.foldl_cons, (h m List.mem_cons_self s).2]
    exact ih fun n hn => h n (List.mem_cons_of_mem _ hn)

/-- The micro-steps in order. -/
abbrev inOrder (ms : List MicroStep) : State → Except Fault State := seq (ms.map act)

theorem inOrder_append (ms ns : List MicroStep) (s : State) : inOrder (ms ++ ns) s = inOrder ms s >>= inOrder ns := by
  rw [inOrder, List.map_append, seq_append]

theorem immutable_of_inert {ms : List MicroStep} (hms : ∀ m ∈ ms, Inert m) {s t : State} (h : s.mutable = false)
    (ht : inOrder ms s = .ok t) : t.mutable = false := by
  refine seq_keeps (P := fun u => u.mutable = false) (fun u v hu hg => (gap_ok hg).mutable.trans hu) ?_ h ht
  intro p hp u hu _ _
  obtain ⟨m, hm, rfl⟩ := List.mem_map.1 hp
  exact (congrArg State.mutable (hms m hm u).2).trans hu

/-- What follows them may use that BMC is still Immutable. -/
theorem inOrder_bind_congr {ms : List MicroStep} (hms : ∀ m ∈ ms, Inert m) {s : State} (h : s.mutable = false)
    {α : Type} {f g : State → Except Fault α} (hfg : ∀ t, t.mutable = false → f t = g t) :
    inOrder ms s >>= f = inOrder ms s >>= g := by
  cases ht : inOrder ms s with
  | error e => rfl
  | ok t => exact hfg t (immutable_of_inert hms h ht)

/-- With refresh off and no hazard standing, a command of such micro-steps only shows them, and takes the draws it takes
beside them. -/
theorem command_of_inert {body : State → Except Fault State} {ms : List MicroStep} {s : State} {k : Nat}
    (hbody : body s.idle = inOrder ms (s.idle.skip k)) (hms : ∀ m ∈ ms, Inert m) (hs : Undisturbed s) :
    command body s = .next (logged k ms s.idle) := by
  have hpicks : ∀ p ∈ ms.map act, Proceeds Undisturbed p := by
    intro p hp u hu
    obtain ⟨m, hm, rfl⟩ := List.mem_map.1 hp
    obtain ⟨hprev, happly⟩ := hms m hm u
    exact ⟨hprev, happly.symm ▸ hu⟩
  have hstart : Undisturbed (s.idle.skip k) := ⟨hs.disarmed, hs.quiet⟩
  obtain ⟨hseq, -⟩ := seq_of_undisturbed undisturbed_ofCells (fun _ => id) hpicks hstart
  rw [command_of_ok (hbody.trans hseq), idle_ran, picked_map_act, draws_map_act, foldl_apply_of_inert hms]
  rfl

/-! ### Rejected cycles (R224, R229) -/

/-- The logs of `n` rejected cycles. -/
abbrev rejections (n : Nat) : List MicroStep := List.replicate n (.log .errNotMutable)

theorem inert_of_mem_rejections {n : Nat} : ∀ m ∈ rejections n, Inert m := fun _ h =>
  List.eq_of_mem_replicate h ▸ inert_log _

theorem rejections_add (m n : Nat) : rejections (m + n) = rejections m ++ rejections n :=
  List.replicate_add m n _

section
variable {s : State} (h : s.mutable = false)
include h

theorem rdmemBody_of_immutable (a : Addr) :
    rdmemBody a s = inOrder (rejections 1) s >>= fun t => pure (0, t) := by
  simp only [rdmemBody, h, Bool.false_eq_true, if_false]
  rfl

theorem rdioBody_of_immutable (p : Byte) : rdioBody p s = inOrder (rejections 1) s >>= fun t => pure (0, t) := by
  simp only [rdioBody, h, Bool.false_eq_true, if_false]
  rfl

theorem wrmemBody_of_immutable (a : Addr) (d : Byte) : wrmemBody a d s = inOrder (rejections 1) s := by
  simp only [wrmemBody, h, Bool.false_eq_true, if_false]
  rfl

theorem wrioBody_of_immutable (p d : Byte) : wrioBody p d s = inOrder (rejections 1) s := by
  simp only [wrioBody, h, Bool.false_eq_true, if_false]
  rfl

theorem copyByte_of_immutable (src dst : Addr) (k : Nat) : copyByte src dst k s = inOrder (rejections 2) s := by
  rw [copyByte, rdmemBody_of_immutable h, bind_assoc, rejections_add 1 1, inOrder_append]
  exact inOrder_bind_congr inert_of_mem_rejections h fun t ht => wrmemBody_of_immutable ht _ _

theorem readBytes_of_immutable (a : Addr) (ks : List Nat) :
    readBytes a ks s =
      inOrder (rejections ks.length) s >>= fun t => pure (List.replicate ks.length 0, t) := by
  induction ks generalizing s with
  | nil => rfl
  | cons k ks ih =>
    rw [readBytes, rdmemBody_of_immutable h, bind_assoc, List.length_cons, Nat.add_comm, rejections_add,
      inOrder_append, bind_assoc]
    refine inOrder_bind_congr inert_of_mem_rejections h fun t ht => ?_
    simp only [pure_eq_ok, ok_bind]
    rw [ih ht, bind_assoc, Nat.add_comm]
    rfl

end

/-- A loop whose rounds are `c` rejections each. -/
theorem forEach_of_immutable {body : Nat → State → Except Fault State} {c : Nat}
    (hbody : ∀ k s, s.mutable = false → body k s = inOrder (rejections c) s) (ks : List Nat) {s : State}
    (h : s.mutable = false) : forEach body ks s = inOrder (rejections (c * ks.length)) s := by
  induction ks generalizing s with
  | nil => rfl
  | cons k ks ih =>
    rw [List.length_cons, Nat.mul_succ, Nat.add_comm, rejections_add, inOrder_append, forEach_cons, hbody k s h]
    exact inOrder_bind_congr inert_of_mem_rejections h fun t ht => ih ht

/-! ### The bulk commands, past their checks -/

theorem command_congr {body body' : State → Except Fault State} {s : State} (h : body s.idle = body' s.idle) :
    command body s = command body' s := by rw [command, command, h]

theorem toNat_ne_zero {len : BitVec 16} (h : len ≠ 0) : len.toNat ≠ 0 := fun h0 => h (BitVec.eq_of_toNat_eq h0)

/-- The warning of BC.COPY (R232). -/
def copyWarning (src dst : Addr) (n : Nat) : List LogKind :=
  if (dst - src).toNat < n ∨ (src - dst).toNat < n then [.wrnOverlap] else []

theorem copyWarning_steps (src dst : Addr) (n : Nat) :
    (if copyOverlap src dst n then [logStep .wrnOverlap] else []) =
      ((copyWarning src dst n).map MicroStep.log).map act := by
  have hoverlap : copyOverlap src dst n = true ↔ (dst - src).toNat < n ∨ (src - dst).toNat < n := by
    rw [copyOverlap, Bool.or_eq_true, decide_eq_true_iff, decide_eq_true_iff]
    rfl
  simp only [copyWarning, hoverlap]
  by_cases h : (dst - src).toNat < n ∨ (src - dst).toNat < n
  · simp only [if_pos h]
    rfl
  · simp only [if_neg h]
    rfl

theorem length_copyOrder (src dst : Addr) (n : Nat) : (copyOrder src dst n).length = n := by
  unfold copyOrder
  split <;> simp

section
variable {s : State} {len : BitVec 16} (hlen : len ≠ 0)
include hlen

theorem exec_bcRdmemn_runs (hdraw : s.drawnBool 0 = false) (a : Addr) :
    exec (.bcRdmemn a len) s = command (fun u =>
      readBytes a (List.range len.toNat) (u.skip 1) >>= fun x => seq [respond (.bytes x.1)] x.2) s := by
  have hdraw' : s.idle.drawnBool 0 = false := hdraw
  unfold exec execBcRdmemn
  exact command_congr (by simp only [toNat_ne_zero hlen, hdraw', Bool.false_eq_true, if_false])

theorem exec_bcWrmemn_runs {buf : List Byte} {off : BitVec 16} (hbuf : s.buffer = some buf)
    (hfits : off.toNat + len.toNat ≤ buf.length) (a : Addr) :
    exec (.bcWrmemn a len off) s = command (forEach (fun k => wrmemBody (bulkAddr a k) (buf.getD (off.toNat + k) 0))
      (List.range len.toNat)) s := by
  unfold exec execBcWrmemn
  exact command_congr (by simp only [State.idle_buffer, hbuf, toNat_ne_zero hlen, Nat.not_lt.2 hfits, if_false])

theorem exec_bcCopy_runs (src dst : Addr) :
    exec (.bcCopy src dst len) s = command (fun u =>
      inOrder ((copyWarning src dst len.toNat).map .log) u >>=
        forEach (copyByte src dst) (copyOrder src dst len.toNat)) s := by
  unfold exec execBcCopy
  exact command_congr (by simp only [inOrder, ← copyWarning_steps, toNat_ne_zero hlen, if_false])

theorem exec_bcFill_runs (a : Addr) (v : Byte) :
    exec (.bcFill a len v) s =
      command (forEach (fun k => wrmemBody (bulkAddr a k) v) (List.range len.toNat)) s := by
  unfold exec execBcFill
  exact command_congr (by simp only [toNat_ne_zero hlen, if_false])

end

/-- A command of an Immutable machine that shows only `ms`, which change no cell. -/
theorem command_of_immutable {s : State} (hs : Inv s) (hm : s.mutable = false) {body : State → Except Fault State}
    {ms : List MicroStep} {k : Nat} (hms : ∀ m ∈ ms, Inert m) (hbody : body s.idle = inOrder ms (s.idle.skip k)) :
    command body s = .next (logged k ms s) := by
  have still : Undisturbed s := ⟨(hs.aloof hm).disarmed, quiet_of_noAckDrive hs.idleDrive hs.noContention⟩
  rw [command_of_inert hbody hms still, State.idle_eq_self hs.idlePosition hs.idleDrive]

theorem inert_of_mem_answered {n : Nat} {r : Response} : ∀ m ∈ rejections n ++ [.respond r], Inert m :=
  List.forall_mem_append.2 ⟨inert_of_mem_rejections, List.forall_mem_singleton.2 (inert_respond r)⟩

theorem inert_of_mem_copyWarning {src dst : Addr} {n k : Nat} :
    ∀ m ∈ (copyWarning src dst n).map MicroStep.log ++ rejections k, Inert m := by
  refine List.forall_mem_append.2 ⟨fun m hm => ?_, inert_of_mem_rejections⟩
  obtain ⟨l, -, rfl⟩ := List.mem_map.1 hm
  exact inert_log l

/-- Settles O37: every command is the list of its logs and its response. -/
theorem cyclesAreRejectedWhileImmutable : Obligations.CyclesAreRejectedWhileImmutable := by
  intro s hs hm
  have hm' : s.idle.mutable = false := hm
  have loop (body : Nat → State → Except Fault State) (c : Nat)
      (hbody : ∀ k u, u.mutable = false → body k u = inOrder (rejections c) u) (n : Nat) :
      forEach body (List.range n) s.idle = inOrder (rejections (c * n)) s.idle := by
    rw [forEach_of_immutable hbody _ hm', List.length_range]
  refine ⟨fun a => ?_, fun a d => ?_, fun p => ?_, fun p d => ?_, fun a len hlen hdraw => ?_,
    fun a len off buf hlen hbuf hfits => ?_, fun a len v hlen => ?_, fun src dst len hlen => ?_⟩
  · unfold exec execBcRdmem
    refine command_of_immutable hs hm (k := 0) (inert_of_mem_answered (n := 1)) ?_
    rw [rdmemBody_of_immutable hm', bind_assoc]
    exact (inOrder_append (rejections 1) [.respond (.byte 0)] s.idle).symm
  · exact command_of_immutable hs hm (k := 0) (inert_of_mem_rejections (n := 1)) (wrmemBody_of_immutable hm' a d)
  · unfold exec execBcRdio
    refine command_of_immutable hs hm (k := 0) (inert_of_mem_answered (n := 1)) ?_
    rw [rdioBody_of_immutable hm', bind_assoc]
    exact (inOrder_append (rejections 1) [.respond (.byte 0)] s.idle).symm
  · exact command_of_immutable hs hm (k := 0) (inert_of_mem_rejections (n := 1)) (wrioBody_of_immutable hm' p d)
  · rw [exec_bcRdmemn_runs hlen hdraw]
    refine command_of_immutable hs hm inert_of_mem_answered ?_
    rw [readBytes_of_immutable (s := s.idle.skip 1) hm', bind_assoc, List.length_range, inOrder_append]
    rfl
  · rw [exec_bcWrmemn_runs hlen hbuf hfits]
    refine command_of_immutable hs hm (k := 0) inert_of_mem_rejections ?_
    rw [loop _ 1 fun k u hu => wrmemBody_of_immutable hu _ _, Nat.one_mul]
    rfl
  · rw [exec_bcFill_runs hlen]
    refine command_of_immutable hs hm (k := 0) inert_of_mem_rejections ?_
    rw [loop _ 1 fun k u hu => wrmemBody_of_immutable hu _ _, Nat.one_mul]
    rfl
  · rw [exec_bcCopy_runs hlen]
    have steps := command_of_immutable hs hm (k := 0)
      (inert_of_mem_copyWarning (src := src) (dst := dst) (n := len.toNat) (k := 2 * len.toNat))
      (body := fun u => inOrder ((copyWarning src dst len.toNat).map .log) u >>=
        forEach (copyByte src dst) (copyOrder src dst len.toNat)) ?_
    · rw [steps, copyWarning]
      split <;> rfl
    · rw [inOrder_append]
      refine inOrder_bind_congr (fun m h => inert_of_mem_copyWarning (k := 0) m (List.mem_append_left _ h)) hm' ?_
      intro t ht
      rw [forEach_of_immutable (fun k u hu => copyByte_of_immutable hu _ _ _) _ ht, length_copyOrder]

/-! ### Failed checks (R230 to R233, R235) -/

/-- Settles O44: a failed check is one log, and a buffer that is too short ends the run. -/
theorem bulkContractChecks : Obligations.BulkContractChecks := by
  intro s hs
  have logs {i : Instr} (hi : exec i s = command (seq [logStep .errContract]) s) :
      exec i s = .next (logged 0 [.log .errContract] s.idle) :=
    exec_of_inert_pick hi rfl (inert_log _) hs
  refine ⟨fun a len off hbuf => logs ?_, fun a off buf hbuf => logs ?_, fun a len off buf hbuf hlen hshort => ?_,
    fun src dst => logs rfl, fun a v => logs rfl⟩
  · unfold exec execBcWrmemn
    exact command_congr (by simp only [State.idle_buffer, hbuf])
  · unfold exec execBcWrmemn
    exact command_congr (by simp only [State.idle_buffer, hbuf]; rfl)
  · unfold exec execBcWrmemn
    refine command_of_error (f := .buffer { s.idle with fault := some .buffer }) ?_
    simp only [State.idle_buffer, hbuf, toNat_ne_zero hlen, hshort, if_false, if_true]
    rw [← hbuf]
    rfl

end Sys2Proof.Machine

/-! ## A stretch of a run, exact where refresh is off

`Does` says what a stretch of a run comes to up to what ticks write. Where refresh is off no tick runs, and the cells
are then exactly what its micro-steps make of them: `Performs` adds that, and gives what a command `Leaves`. -/

namespace Sys2Proof.Machine
open Sys2Proof.Claims

/-- `t` is `s` after the micro-steps `ms` in order and the ticks among them; where refresh is off, there are none. -/
structure Performs (s t : State) (ms : List MicroStep) : Prop extends Does s t ms where
  still : s.refreshEnabled = false → t.refreshEnabled = false ∧ t.bare = (ms.foldl MicroStep.apply s).bare

theorem Performs.refl (s : State) : Performs s s [] := ⟨.refl s, fun h => ⟨h, rfl⟩⟩

theorem Performs.trans {s t u : State} {ms ns : List MicroStep} (h : Performs s t ms) (g : Performs t u ns) :
    Performs s u (ms ++ ns) where
  toDoes := h.toDoes.trans g.toDoes
  still hoff := by
    obtain ⟨hoff', hcells⟩ := h.still hoff
    obtain ⟨hoff'', hcells'⟩ := g.still hoff'
    refine ⟨hoff'', ?_⟩
    rw [hcells', List.foldl_append]
    exact bare_foldl_apply ns hcells

theorem performs_performed {m : MicroStep} (hm : m ≠ .setRefresh true) (k : Nat) (ack : Bool) (s : State) :
    Performs s (s.performed k ack m) [m] where
  toDoes := does_performed k ack m s
  still hoff := ⟨apply_keeps_disarmed hm hoff, State.bare_performed k ack m s⟩

theorem performs_ran {ps : List Pick} (hps : ∀ p ∈ ps, ∀ u, (p u).2 ≠ .setRefresh true) (s : State) :
    Performs s (ran ps s) (picked ps s) := by
  induction ps generalizing s with
  | nil => exact .refl s
  | cons p ps ih =>
    exact (performs_performed (hps p List.mem_cons_self s) _ _ s).trans
      (ih (fun q hq => hps q (List.mem_cons_of_mem _ hq)) _)

theorem performs_targetTakesByte (s : State) :
    Performs s (targetTakesByte s) [.memWrite (s.abLines 0) (s.dbLines 1)] :=
  ⟨does_targetTakesByte s, fun hoff => ⟨hoff, State.bare_targetTakesByte s⟩⟩

theorem performs_deviceTakesByte (s : State) :
    Performs s (deviceTakesByte s) [.ioWrite (lowByte (s.abLines 0)) (s.dbLines 1)] where
  cells := rfl
  foregroundSteps := by simp [State.foregroundSteps, deviceTakesByte, MicroStep.apply]
  responses := by simp [State.responses, deviceTakesByte, responseOf, MicroStep.apply]
  logs := by simp [State.logs, deviceTakesByte, logOf, MicroStep.apply]
  still hoff := ⟨hoff, rfl⟩

theorem gap_of_disarmed {s : State} (h : s.refreshEnabled = false) : gap s = .ok s :=
  gap_of_disabled (by simp [State.tickEnabled, h])

theorem performs_gap {s t : State} (hm : s.refreshEnabled = true → s.mutable = true) (h : gap s = .ok t) :
    Performs s t [] := by
  cases hr : s.refreshEnabled with
  | false =>
    obtain rfl : s = t := Except.ok.inj ((gap_of_disarmed hr).symm.trans h)
    exact .refl s
  | true => exact ⟨does_gap (hm hr) h, fun hoff => absurd (hr.symm.trans hoff) (by simp)⟩

/-- What a command leaves, given what its micro-steps make of the cells. -/
theorem Performs.leaves {s t e : State} {ms : List MicroStep} (h : Performs s t ms)
    (he : (ms.foldl MicroStep.apply s).bare = e.bare) : Leaves s e.idle t.idle :=
  leaves_of_bare (h.cells.trans (congrArg State.sansTicks he)) fun hoff => (h.still hoff).2.trans he

/-! ### A micro-step with the ticks before it -/

/-- No hazard stands for an agent at rest, and a tick can run wherever it is enabled. -/
structure Calm (s : State) : Prop where
  quiet : Quiet s
  ready : TickReady s
  armedMutable : s.refreshEnabled = true → s.mutable = true

theorem calm_ofCells : OfCells Calm := fun s =>
  ⟨fun ⟨hq, hr, hm⟩ => ⟨(quiet_ofCells s).1 hq, hr, hm⟩, fun ⟨hq, hr, hm⟩ => ⟨(quiet_ofCells s).2 hq, hr, hm⟩⟩

theorem TicksOnly.quiet {s t : State} (h : TicksOnly s t) (hs : Quiet s) : Quiet t :=
  have idle : TicksOnly s.idle t.idle := ⟨congrArg State.idle h.same, h.inputsDrop, h.events, h.rasLevel⟩
  idle.contention.trans hs

theorem Calm.ticks {s t : State} (h : Calm s) (g : TicksOnly s t) : Calm t where
  quiet := g.quiet h.quiet
  ready := fun he => (g.line_dir .ras).trans (h.ready (g.refreshEnabled.symm.trans he))
  armedMutable := fun he => g.mutable.trans (h.armedMutable (g.refreshEnabled.symm.trans he))

theorem Inv.calm {s : State} (h : Inv s) (ht : TickReady s) : Calm s :=
  ⟨quiet_of_noAckDrive h.idleDrive h.noContention, ht, h.refreshMutable⟩

theorem micro_of_calm {s : State} (h : Calm s) {p : Pick} {k : Nat} {m : MicroStep} (hp : ∀ v, p v = (k, m))
    (hprev : ∀ v, m.prevented v = none) (hm : m ≠ .setRefresh true) (hq : ∀ v, Quiet v → Quiet (m.apply v)) :
    ∃ v : State, gap s = .ok v ∧ micro false p s = .ok (v.performed k false m) ∧
      Performs s (v.performed k false m) [m] := by
  obtain ⟨v, hv⟩ := gap_succeeds_of_tickReady (contention_of_quiet h.quiet) h.ready
  have quiet : Quiet (v.performed k false m) :=
    quiet_ofCells.of_bare_eq (State.bare_performed k false m v) (hq v ((gap_ok hv).quiet h.quiet))
  refine ⟨v, hv, ?_, (performs_gap h.armedMutable hv).trans (performs_performed hm k false v)⟩
  rw [micro_of_gap hv, hp]
  exact perform_of_safe (hprev v) (contention_of_quiet quiet)

theorem Inert.ne_setRefresh {m : MicroStep} (hm : Inert m) : m ≠ .setRefresh true := by
  rintro rfl
  have h := congrArg State.refreshEnabled (hm State.reset).2
  exact absurd h.symm Bool.false_ne_true

/-- A micro-step that changes no cell. -/
theorem micro_of_inert {s : State} (h : Calm s) {p : Pick} {k : Nat} {m : MicroStep} (hp : ∀ v, p v = (k, m))
    (hm : Inert m) : ∃ v : State, gap s = .ok v ∧ micro false p s = .ok (v.performed k false m) ∧
      Calm (v.performed k false m) ∧ Performs s (v.performed k false m) [m] := by
  obtain ⟨v, hv, hmicro, hperf⟩ := micro_of_calm h hp (fun u => (hm u).1) hm.ne_setRefresh
    fun u hu => (hm u).2.symm ▸ hu
  exact ⟨v, hv, hmicro, calm_ofCells.of_bare_eq (bare_performed_of_inert hm k false v) (h.ticks (gap_ok hv)), hperf⟩

/-! ### BC.RDMEMN without a cycle (R230, R235) -/

theorem exec_bcRdmemn_of_zero (a : Addr) (s : State) :
    exec (.bcRdmemn a 0) s = command (seq [fun _ => (0, .log .errContract), respond .null]) s := rfl

theorem exec_bcRdmemn_of_noAlloc {a : Addr} {len : BitVec 16} {s : State} (hlen : len ≠ 0)
    (hdraw : s.drawnBool 0 = true) :
    exec (.bcRdmemn a len) s = command (seq [fun _ => (1, .log .errAlloc), respond .null]) s := by
  have hdraw' : s.idle.drawnBool 0 = true := hdraw
  unfold exec execBcRdmemn
  exact command_congr (by simp only [toNat_ne_zero hlen, hdraw', if_false, if_true])

/-- A log and the response `null`, with the ticks between them. -/
theorem command_rejectsRead {s : State} (hs : Inv s) (ht : TickReady s) (k : Nat) (l : LogKind) :
    ∃ t, command (seq [fun _ => (k, .log l), respond .null]) s = .next t ∧ Leaves s s t ∧
      t.foregroundSteps = s.foregroundSteps ++ [.log l, .respond .null] := by
  have hidle := State.idle_eq_self hs.idlePosition hs.idleDrive
  obtain ⟨v, -, hlog, calm, hperf⟩ := micro_of_inert (hs.calm ht) (p := fun _ => (k, .log l)) (fun _ => rfl)
    (inert_log l)
  obtain ⟨w, -, hrespond, -, hperf'⟩ := micro_of_inert calm (p := respond .null) (fun _ => rfl) (inert_respond .null)
  have hall := hperf.trans hperf'
  have hleaves := hall.leaves (e := s) rfl
  rw [hidle] at hleaves
  refine ⟨_, command_of_ok ?_, hleaves, hall.foregroundSteps⟩
  rw [hidle, seq_cons, hlog, ok_bind, seq_singleton, hrespond]

/-- Settles O45: either rejection is a log and a response, and a tick falls between them at most. -/
theorem bulkReadRejections : Obligations.BulkReadRejections := by
  intro a len s hs ht hreject
  by_cases hlen : len = 0
  · subst hlen
    rw [exec_bcRdmemn_of_zero, if_pos rfl]
    exact command_rejectsRead hs ht 0 .errContract
  · rw [exec_bcRdmemn_of_noAlloc hlen (hreject.resolve_left hlen), if_neg hlen]
    exact command_rejectsRead hs ht 1 .errAlloc

end Sys2Proof.Machine

/-! ## Cycles while `Mutable` (43_bus_cycles.md R220 to R223)

The four cycles, in both I/O shapes, are one: an opening, what the address and the data bus are made to show, strobes,
the sample or the taking of the byte, the strobes back, and a closing. `CycleKind` is what they differ in, `Presents`
what the target sees in the middle. -/

namespace Sys2Proof.Machine
open Sys2Proof.Claims

/-! ### The strobes of a cycle -/

/-- What a cycle strobes, and its holds. -/
structure CycleKind where
  shape : IoShape
  strobe : Signal
  h1 : Hold
  h2 : Hold
  h3 : Hold
  h4 : Hold

/-- The strobe is one of those of R220 to R223. -/
abbrev CycleKind.Strobes (c : CycleKind) : Prop :=
  c.strobe = .rd ∨ c.strobe = .wr ∨ c.strobe = .ioIn ∨ c.strobe = .ioOut

/-- The cycle of R220. -/
abbrev memReads : CycleKind := ⟨.full, .rd, .tR1, .tR2, .tR3, .tR4⟩
/-- The cycle of R221. -/
abbrev memWrites : CycleKind := ⟨.full, .wr, .tW1, .tW2, .tW3, .tW4⟩
/-- The cycle of R222. -/
abbrev portReads (i : IoShape) : CycleKind := ⟨i, .ioIn, .tIoR1, .tIoR2, .tIoR3, .tIoR4⟩
/-- The cycle of R223. -/
abbrev portWrites (i : IoShape) : CycleKind := ⟨i, .ioOut, .tIoW1, .tIoW2, .tIoW3, .tIoW4⟩

section
variable (c : CycleKind)

/-- The lines the cycle strobes. -/
def CycleKind.lines : List Signal :=
  match c.shape with
  | .full => [.ras, c.strobe, .mux, .cas]
  | .strobeOnly => [c.strobe]

/-- The strobes up to the sample or the taking of the byte. -/
def CycleKind.on : List Pick :=
  match c.shape with
  | .full => strobePicks c.strobe c.h1 c.h2 c.h3 c.h4
  | .strobeOnly => [assertLine c.strobe, hold c.h2]

/-- The strobes after it. -/
def CycleKind.off : List Pick :=
  match c.shape with
  | .full => [deassertLine .cas, deassertLine c.strobe, deassertLine .ras, deassertLine .mux]
  | .strobeOnly => [deassertLine c.strobe]

/-- The micro-steps of `on`. -/
def CycleKind.onSteps (T : Timing) : List MicroStep :=
  match c.shape with
  | .full => strobesOn T c.strobe c.h1 c.h2 c.h3 c.h4
  | .strobeOnly => [.write c.strobe .low, .hold c.h2 (T.bound c.h2)]

/-- The micro-steps of `off`. -/
def CycleKind.offSteps : List MicroStep :=
  match c.shape with
  | .full => strobesOff c.strobe
  | .strobeOnly => [.write c.strobe .high]

/-- The signals after the cycle. -/
def CycleKind.atRest (g : Signals) : Signals :=
  match c.shape with
  | .full => strobed g c.strobe
  | .strobeOnly => g.set c.strobe ⟨.output, .high⟩

end

/-- The last micro-step of a critical section (R225). -/
abbrev closing : Pick := act (.setMasked false)

theorem cyclePick_deassertLine {lines : List Signal} {n : Signal} (hr : requestLine n = false) (hn : n ∈ lines) :
    CyclePick lines (deassertLine n) := by
  have ht : n ≠ .test := by rintro rfl; cases hr
  simp [deassertLine, hr, cycleStep, hn, ht]

theorem CycleKind.draws_on (c : CycleKind) (s : State) : draws c.on s = 0 := by
  obtain ⟨shape, strobe, h1, h2, h3, h4⟩ := c
  cases shape <;> rfl

section
variable {c : CycleKind} (hc : c.Strobes)
include hc

theorem CycleKind.requestLine_strobe : requestLine c.strobe = false := by
  rcases hc with h | h | h | h <;> rw [h] <;> rfl

theorem CycleKind.picked_on (s : State) : picked c.on s = c.onSteps s.params.timing := by
  obtain ⟨shape, strobe, h1, h2, h3, h4⟩ := c
  cases shape <;> rcases hc with h | h | h | h <;> subst h <;> rfl

theorem CycleKind.picked_off (s : State) : picked c.off s = c.offSteps := by
  obtain ⟨shape, strobe, h1, h2, h3, h4⟩ := c
  cases shape <;> rcases hc with h | h | h | h <;> subst h <;> rfl

theorem CycleKind.cyclePick_on : ∀ p ∈ c.on, CyclePick c.lines p := by
  have hr := CycleKind.requestLine_strobe hc
  have inside {n : Signal} (hn : requestLine n = false) (hm : n ∈ c.lines) : CyclePick c.lines (assertLine n) :=
    cyclePick_assertLine hn hm
  unfold CycleKind.lines CycleKind.on at *
  split at inside
  · simp [strobePicks, inside (n := .ras) rfl, inside (n := .mux) rfl, inside (n := .cas) rfl, inside hr]
  · simp [inside hr]

theorem CycleKind.cyclePick_off : ∀ p ∈ c.off, CyclePick c.lines p := by
  have hr := CycleKind.requestLine_strobe hc
  have inside {n : Signal} (hn : requestLine n = false) (hm : n ∈ c.lines) : CyclePick c.lines (deassertLine n) :=
    cyclePick_deassertLine hn hm
  unfold CycleKind.lines CycleKind.off at *
  split at inside
  · simp [inside (n := .ras) rfl, inside (n := .mux) rfl, inside (n := .cas) rfl, inside hr]
  · simp [inside hr]

/-- Each strobe goes to its active level and back. -/
theorem CycleKind.signals_strobed {s : State} (hs : ∀ n ∈ c.lines, (s.line n).dir = .output) (T : Timing) :
    ((c.onSteps T ++ c.offSteps).foldl MicroStep.apply s).signals = c.atRest s.signals := by
  obtain ⟨shape, strobe, h1, h2, h3, h4⟩ := c
  cases shape with
  | full =>
    simp only [CycleKind.lines, List.forall_mem_cons] at hs
    obtain ⟨hras, hstrobe, hmux, hcas, -⟩ := hs
    rcases hc with h | h | h | h <;> subst h <;>
      simp_all [CycleKind.onSteps, CycleKind.offSteps, CycleKind.atRest, strobesOn, strobesOff, strobed,
        MicroStep.apply, State.line, Signals.get, Signals.set]
  | strobeOnly =>
    have hstrobe := hs strobe (List.mem_singleton.2 rfl)
    rcases hc with h | h | h | h <;> subst h <;>
      simp_all [CycleKind.onSteps, CycleKind.offSteps, CycleKind.atRest, MicroStep.apply, State.line, Signals.get,
        Signals.set]

end

/-! ### What a cycle makes of the cells -/

/-- A micro-step that writes the level of a signal other than TEST, or nothing. -/
def strobeStep : MicroStep → Bool
  | .write n _ => n != .test
  | .hold _ _ => true
  | _ => false

theorem foldl_strobeSteps {ms : List MicroStep} (hms : ms.all strobeStep = true) (s : State) :
    ms.foldl MicroStep.apply s = { s with signals := (ms.foldl MicroStep.apply s).signals } := by
  induction ms generalizing s with
  | nil => rfl
  | cons m ms ih =>
    obtain ⟨hm, hms⟩ := Bool.and_eq_true_iff.1 hms
    have happly : m.apply s = { s with signals := (m.apply s).signals } := by
      cases m with
      | write n l =>
        have ht : n ≠ .test := by simpa [strobeStep] using hm
        simp [MicroStep.apply, State.setLine, ht]
      | hold => rfl
      | _ => cases hm
    rw [List.foldl_cons, ih hms, happly]

theorem CycleKind.strobeSteps_on {c : CycleKind} (hc : c.Strobes) (T : Timing) :
    (c.onSteps T).all strobeStep = true := by
  obtain ⟨shape, strobe, h1, h2, h3, h4⟩ := c
  cases shape <;> rcases hc with h | h | h | h <;> subst h <;> rfl

theorem CycleKind.strobeSteps_off {c : CycleKind} (hc : c.Strobes) : c.offSteps.all strobeStep = true := by
  obtain ⟨shape, strobe, h1, h2, h3, h4⟩ := c
  cases shape <;> rcases hc with h | h | h | h <;> subst h <;> rfl

/-- What the target does in the middle of a cycle: it writes target memory or nothing. -/
def MemoryOnly (m : MicroStep) : Prop :=
  ∃ f : Params → Memory → Memory, ∀ s, m.apply s = { s with memory := f s.params s.memory }

theorem memoryOnly_sampleMem (x : Addr) (d : Byte) : MemoryOnly (.sampleMem x d) := ⟨fun _ m => m, fun _ => rfl⟩
theorem memoryOnly_sampleIo (x d : Byte) : MemoryOnly (.sampleIo x d) := ⟨fun _ m => m, fun _ => rfl⟩
theorem memoryOnly_ioWrite (x d : Byte) : MemoryOnly (.ioWrite x d) := ⟨fun _ m => m, fun _ => rfl⟩
theorem memoryOnly_memWrite (x : Addr) (d : Byte) : MemoryOnly (.memWrite x d) :=
  ⟨fun p m => if inRegions p.ramRegions x then m.write x.toNat d else m, fun _ => rfl⟩

/-- The strobes and what the target does between them. -/
theorem CycleKind.foldl_strobed {c : CycleKind} (hc : c.Strobes) {s : State}
    (hs : ∀ n ∈ c.lines, (s.line n).dir = .output) (T : Timing) {m : MicroStep} (hm : MemoryOnly m) :
    c.offSteps.foldl MicroStep.apply (m.apply ((c.onSteps T).foldl MicroStep.apply s)) =
      { m.apply s with signals := c.atRest s.signals } := by
  obtain ⟨f, hf⟩ := hm
  have hmid (u : State) : (m.apply u).signals = u.signals := by rw [hf]
  have hsignals : (c.offSteps.foldl MicroStep.apply (m.apply ((c.onSteps T).foldl MicroStep.apply s))).signals =
      c.atRest s.signals := by
    rw [← CycleKind.signals_strobed hc hs T, List.foldl_append, signals_foldl_apply c.offSteps (hmid _),
      ← signals_foldl_apply c.offSteps rfl]
  rw [foldl_strobeSteps (CycleKind.strobeSteps_off hc), hsignals, foldl_strobeSteps (CycleKind.strobeSteps_on hc T),
    hf, hf]

theorem apply_addressStep (s : State) (A : Addr) (u : State) :
    (addressStep s A).apply u =
      { u with ab := { u.ab with latch := if addressOpen s then A else u.ab.latch } } := by
  unfold addressStep
  split <;> rfl

theorem apply_setwStep {s u : State} (hu : u.db = s.db) (b : Bool) :
    (setwStep s b).apply u = { u with db := ⟨s.db.latch, writeMask s, true⟩ } := by
  unfold setwStep writeMask
  split
  · next h =>
    show u = { u with db := ⟨s.db.latch, s.db.mask, true⟩ }
    rw [← h, ← hu]
  · rw [← hu]
    rfl

/-- A read cycle's micro-steps, with the sample `m`. -/
def CycleKind.readSteps (c : CycleKind) (s : State) (A : Addr) (m : MicroStep) : List MicroStep :=
  [.check, .setMasked true] ++ ((addressStep s A :: c.onSteps s.params.timing) ++
    ([m] ++ (c.offSteps ++ [.setMasked false])))

/-- What a write cycle's data steps are: the switch of the data bus, the address and the data. -/
def dataSteps (s : State) (A : Addr) (d : Byte) (b : Bool) : List MicroStep :=
  [setwStep s b, addressStep s A, .dbLatch d]

/-- A write cycle's micro-steps, with the taking `m` of the byte. -/
def CycleKind.writeSteps (c : CycleKind) (s : State) (A : Addr) (d : Byte) (m : MicroStep) (b : Bool) :
    List MicroStep :=
  [.check, .setMasked true] ++ ((dataSteps s A d b ++ c.onSteps s.params.timing) ++
    ([m] ++ ((c.offSteps ++ [.dbSetReadable]) ++ [.setMasked false])))

theorem foldl_dataSteps {s u : State} (hu : u.db = s.db) (A : Addr) (d : Byte) (b : Bool) :
    (dataSteps s A d b).foldl MicroStep.apply u =
      { u with
        ab := { u.ab with latch := if addressOpen s then A else u.ab.latch }
        db := ⟨d, writeMask s, true⟩ } := by
  rw [dataSteps, List.foldl_cons, apply_setwStep hu, List.foldl_cons, apply_addressStep]
  rfl

section
variable {c : CycleKind} (hc : c.Strobes) {s : State} (hs : ∀ n ∈ c.lines, (s.line n).dir = .output) {m : MicroStep}
  (hm : MemoryOnly m)
include hc hs hm

theorem CycleKind.foldl_readSteps (A : Addr) :
    (c.readSteps s A m).foldl MicroStep.apply s =
      { s with
        signals := c.atRest s.signals
        ab := { s.ab with latch := latchAfter s A }
        memory := (m.apply s).memory
        masked := false } := by
  have hstart : [MicroStep.check, .setMasked true].foldl MicroStep.apply s = { s with masked := true } := rfl
  have hcells := CycleKind.foldl_strobed hc
    (s := { s with masked := true, ab := { s.ab with latch := latchAfter s A } }) hs s.params.timing hm
  obtain ⟨f, hf⟩ := hm
  rw [CycleKind.readSteps, List.foldl_append, hstart, List.foldl_append, List.foldl_cons, apply_addressStep,
    List.foldl_append, List.foldl_append]
  refine (congrArg ([MicroStep.setMasked false].foldl MicroStep.apply) hcells).trans ?_
  simp only [hf]
  rfl

theorem CycleKind.foldl_writeSteps (A : Addr) (d : Byte) (b : Bool) :
    (c.writeSteps s A d m b).foldl MicroStep.apply s =
      { s with
        signals := c.atRest s.signals
        ab := { s.ab with latch := latchAfter s A }
        db := ⟨d, 0, false⟩
        memory := (m.apply s).memory
        masked := false } := by
  have hstart : [MicroStep.check, .setMasked true].foldl MicroStep.apply s = { s with masked := true } := rfl
  have hcells := CycleKind.foldl_strobed hc
    (s := { s with masked := true, ab := { s.ab with latch := latchAfter s A }, db := ⟨d, writeMask s, true⟩ }) hs
    s.params.timing hm
  obtain ⟨f, hf⟩ := hm
  simp only [CycleKind.writeSteps, List.foldl_append]
  rw [hstart, foldl_dataSteps (s := s) (u := { s with masked := true }) rfl]
  refine (congrArg (fun u => [MicroStep.setMasked false].foldl MicroStep.apply
    ([MicroStep.dbSetReadable].foldl MicroStep.apply u)) hcells).trans ?_
  simp only [hf]
  rfl

end

end Sys2Proof.Machine

/-! ## The run of a cycle

Two micro-steps open it, with the ticks before each; from the mask on there are none (43_bus_cycles.md R225). -/

namespace Sys2Proof.Machine
open Sys2Proof.Claims

/-! ### The start -/

/-- A machine that can run a cycle on `lines`: `CycleReady` without the invariant, and with the data bus undriven where
the cycle reads (R224, R372). -/
structure CycleFit (lines : List Signal) (s : State) : Prop where
  isMutable : s.mutable = true
  granted : s.busGranted = true
  noRead : s.asserted .rd = false
  noIn : s.asserted .ioIn = false
  outputs : ∀ n ∈ lines, (s.line n).dir = .output
  undriven : strobesRead lines = true → s.db.mask = 0
  ready : TickReady s

theorem CycleFit.calm {lines : List Signal} {s : State} (h : CycleFit lines s) : Calm s :=
  ⟨no_contention_of_no_read (s := s.idle) h.granted h.noRead h.noIn, h.ready, fun _ => h.isMutable⟩

theorem fit_of_cycleReady {lines : List Signal} {s : State} (h : CycleReady s lines)
    (hd : strobesRead lines = true → s.db.mask = 0) : CycleFit lines s :=
  ⟨h.isMutable, h.granted, h.noRead, h.noIn, h.outputs, hd, h.tickReady⟩

theorem BusHeld.fit {s : State} (h : BusHeld s) {lines : List Signal} (hl : ∀ n ∈ lines, n ∈ sharedSignals) :
    CycleFit lines s where
  isMutable := h.isMutable
  granted := h.granted
  noRead := by simp [State.asserted, h.resting .rd (by decide), inactiveLevel, activeLevel]
  noIn := by simp [State.asserted, h.resting .ioIn (by decide), inactiveLevel, activeLevel]
  outputs := fun n hn => congrArg Line.dir (h.resting n (hl n hn))
  undriven := fun _ => h.dbMask
  ready := fun _ => congrArg Line.dir h.ras

theorem CycleFit.midCycle {lines : List Signal} {s u : State} (h : CycleFit lines s)
    (hu : Performs s u [.check, .setMasked true]) : MidCycle lines u := by
  have same {β : Type} (f : State → β) := congrArg f hu.cells
  exact
    { masked := same State.masked
      granted := (same State.busGranted).trans h.granted
      outputs := fun n hn => by
        have hdir := same fun v => (v.line n).dir
        cases n <;> exact hdir.trans (h.outputs _ hn)
      undriven := fun hr => (same fun v => v.db.mask).trans (h.undriven hr)
      unread := fun _ => ⟨(same (State.asserted · .rd)).trans h.noRead, (same (State.asserted · .ioIn)).trans h.noIn⟩ }

/-- The opening of a cycle; with no tick it takes no draw. -/
theorem opening_of_fit {lines : List Signal} {s : State} (h : CycleFit lines s) :
    ∃ u, seq opening s = .ok u ∧ Performs s u [.check, .setMasked true] ∧
      (s.refreshEnabled = false → u.inputs = s.inputs ∧ u.drawCount = s.drawCount) := by
  obtain ⟨v, hv, hcheck, hperf⟩ := micro_of_calm h.calm (p := act .check) (fun _ => rfl) (fun _ => rfl) (by simp)
    fun _ hq => hq
  have calm : Calm (v.performed 0 false .check) :=
    calm_ofCells.of_bare_eq (State.bare_performed 0 false .check v) (h.calm.ticks (gap_ok hv))
  obtain ⟨w, hw, hmask, hperf'⟩ := micro_of_calm calm (p := act (.setMasked true)) (fun _ => rfl) (fun _ => rfl)
    (by simp) fun _ hq => hq
  refine ⟨w.performed 0 false (.setMasked true), ?_, hperf.trans hperf', fun hoff => ?_⟩
  · rw [opening, seq_cons, hcheck, ok_bind, seq_singleton, hmask]
  · obtain rfl : s = v := Except.ok.inj ((gap_of_disarmed hoff).symm.trans hv)
    obtain rfl : s.performed 0 false .check = w :=
      Except.ok.inj ((gap_of_disarmed (s := s.performed 0 false .check) hoff).symm.trans hw)
    constructor <;> simp

/-! ### The address -/

/-- The pick writes the address `A` wherever the address bus is as in `s`, up to what ticks write (R155, R157, R228). -/
def WritesAddress (body : Pick) (s : State) (A : Addr) : Prop :=
  ∀ u : State, u.sansTicks.ab = s.sansTicks.ab → u.params = s.params → cycleAddress body u = (0, addressStep s A)

theorem addressOpen_congr {s u : State} (hab : u.sansTicks.ab = s.sansTicks.ab) (hp : u.params = s.params) :
    addressOpen u = addressOpen s := by
  have same {β : Type} (f : Bus 16 → β) := congrArg f hab
  have hmask : u.ab.mask = s.ab.mask := same Bus.mask
  have hflag : u.ab.writable = s.ab.writable := same Bus.writable
  simp only [addressOpen, hmask, hflag, hp]

/-- A cycle's address write, for a body that the flag alone gates. -/
theorem cycleAddress_eq {body : Pick} {u : State} {A : Addr}
    (hbody : body u = if u.ab.writable then (0, .abLatch A) else (0, .log .errNotWritable)) :
    cycleAddress body u = (0, addressStep u A) := by
  have hreading : u.params.releasedAddress = .written ↔ ¬ u.params.releasedAddress = .rejected := by
    cases u.params.releasedAddress <;> decide
  simp only [cycleAddress, addressStep, addressOpen, hbody, Bool.and_eq_true, Bool.or_eq_true, bne_iff_ne, beq_iff_eq,
    hreading, ← not_and_or]
  by_cases hrej : u.ab.mask = 0 ∧ u.params.releasedAddress = .rejected
  · simp only [hrej, and_self, not_true_eq_false, and_false, if_true, if_false]
  · simp only [hrej, not_false_eq_true, and_true, if_false]
    split <;> rfl

theorem addressStep_congr {s u : State} (hab : u.sansTicks.ab = s.sansTicks.ab) (hp : u.params = s.params) (A : Addr) :
    addressStep u A = addressStep s A := by rw [addressStep, addressStep, addressOpen_congr hab hp]

theorem writesAddress_abWraddr (s : State) (a : Addr) : WritesAddress (abWraddrBody a) s a := fun u hab hp => by
  rw [cycleAddress_eq rfl, addressStep_congr hab hp]

theorem ioLatch_congr {s u : State} (hab : u.sansTicks.ab = s.sansTicks.ab) (hp : u.params = s.params) (p : Byte) :
    ioLatch u p = ioLatch s p := by
  have same {β : Type} (f : Bus 16 → β) := congrArg f hab
  have hhigh : u.ab.latch &&& 0xFF00 = s.ab.latch &&& 0xFF00 := same Bus.latch
  rw [← ioAddress_eq_ioLatch, ← ioAddress_eq_ioLatch, hp]
  unfold ioAddress withLowByte
  rw [hhigh]

theorem writesAddress_abWrioaddr (s : State) (p : Byte) : WritesAddress (abWrioaddrBody p) s (ioLatch s p) :=
  fun u hab hp => by
    have hbody : abWrioaddrBody p u =
        if u.ab.writable then (0, .abLatch (ioLatch u p)) else (0, .log .errNotWritable) := by
      rw [← ioAddress_eq_ioLatch]
      rfl
    rw [cycleAddress_eq hbody, addressStep_congr hab hp, ioLatch_congr hab hp]

/-! ### What the target sees (R227) -/

/-- At the sample of a cycle from `s`, or where the target takes the byte: `A` is the address written, and `k` draws
were taken before, where refresh is off. -/
structure Presents (s : State) (A : Addr) (k : Nat) (v : State) : Prop where
  params : v.params = s.params
  memory : v.memory = s.memory
  abMask : v.ab.mask = s.ab.mask
  high : v.ab.latch &&& 0xFF00 = latchAfter s A &&& 0xFF00
  opened : addressOpen s = true → v.ab.latch = A
  still : s.refreshEnabled = false →
    v.ab.latch = latchAfter s A ∧ v.inputs = s.inputs.drop k ∧ v.drawCount = s.drawCount + k

/-- The drawn bits of a bus read as the latch's. -/
theorem shown_and_mask {n : Nat} (latch mask env : BitVec n) : shown latch mask env &&& mask = latch &&& mask := by
  ext i hi
  simp only [shown, BitVec.getElem_and, BitVec.getElem_or, BitVec.getElem_not]
  cases mask[i] <;> simp

section
variable {s v : State} {A : Addr} {k : Nat} (h : Presents s A k v)
include h

theorem Presents.abLines_high : v.abLines 0 &&& (s.ab.mask &&& 0xFF00) = latchAfter s A &&& (s.ab.mask &&& 0xFF00) := by
  have hmask : v.abLines 0 &&& s.ab.mask = v.ab.latch &&& s.ab.mask := h.abMask ▸ shown_and_mask _ _ _
  have swap (x : Addr) : x &&& (s.ab.mask &&& 0xFF00) = (x &&& 0xFF00) &&& s.ab.mask := by
    rw [BitVec.and_comm s.ab.mask, BitVec.and_assoc]
  rw [← BitVec.and_assoc, hmask, BitVec.and_assoc, swap, h.high, ← swap]

theorem Presents.abLines_masked (hw : s.ab.writable = true) : v.abLines 0 &&& s.ab.mask = A &&& s.ab.mask := by
  have hmask : v.abLines 0 &&& s.ab.mask = v.ab.latch &&& s.ab.mask := h.abMask ▸ shown_and_mask _ _ _
  rw [hmask]
  by_cases ho : addressOpen s = true
  · rw [h.opened ho]
  · have hz : s.ab.mask = 0 := by
      simp only [addressOpen, hw, Bool.true_and, Bool.or_eq_true, not_or, bne_iff_ne, ne_eq, not_not] at ho
      exact ho.1
    simp [hz]

theorem Presents.drawn (hoff : s.refreshEnabled = false) (j : Nat) : v.drawn j = s.drawn (k + j) := by
  obtain ⟨-, hi, hc⟩ := h.still hoff
  simp [State.drawn, hi, hc, Nat.add_assoc]

theorem Presents.abLines_still (hoff : s.refreshEnabled = false) :
    v.abLines 0 = shown (latchAfter s A) s.ab.mask (abEnv s k) := by
  obtain ⟨hl, -, -⟩ := h.still hoff
  rw [State.abLines, Bus.lines, h.drawn hoff, hl, h.abMask]
  rfl

end

end Sys2Proof.Machine

/-! ## The four cycles (43_bus_cycles.md R220 to R223) -/

namespace Sys2Proof.Machine
open Sys2Proof.Claims

theorem CyclePick.ne_setRefresh {lines : List Signal} {p : Pick} (hp : CyclePick lines p) (u : State) :
    (p u).2 ≠ .setRefresh true := fun h => by
  have hin := hp u
  rw [h] at hin
  cases hin

/-- A stretch inside the critical section, or its end. -/
theorem performs_ran_of_cyclePicks {lines : List Signal} {ps : List Pick} (hps : ∀ p ∈ ps, CyclePick lines p)
    (s : State) : Performs s (ran ps s) (picked ps s) ∧
      Performs s (ran (ps ++ [closing]) s) (picked ps s ++ [.setMasked false]) := by
  have inside : ∀ p ∈ ps, ∀ u, (p u).2 ≠ .setRefresh true := fun p hp u => (hps p hp).ne_setRefresh u
  refine ⟨performs_ran inside s, ?_⟩
  have hall := performs_ran (ps := ps ++ [closing])
    (List.forall_mem_append.2 ⟨inside, List.forall_mem_singleton.2 fun _ => by simp [act]⟩) s
  rwa [picked_append] at hall

theorem presents_of_opened {s u v : State} {A : Addr} {k : Nat} (hu : Performs s u [.check, .setMasked true])
    (hdraw : s.refreshEnabled = false → u.inputs = s.inputs ∧ u.drawCount = s.drawCount)
    (hab : v.ab = { u.ab with latch := if addressOpen s then A else u.ab.latch }) (hp : v.params = u.params)
    (hm : v.memory = u.memory) (hi : v.inputs = u.inputs.drop k) (hc : v.drawCount = u.drawCount + k) :
    Presents s A k v := by
  have same {β : Type} (f : State → β) := congrArg f hu.cells
  have hhigh : u.ab.latch &&& 0xFF00 = s.ab.latch &&& 0xFF00 := same fun w => w.ab.latch
  refine ⟨hp.trans hu.params, hm.trans hu.memory, ?_, ?_, fun ho => ?_, fun hoff => ?_⟩
  · rw [hab]
    exact same fun w => w.ab.mask
  · rw [hab, latchAfter]
    split
    · rfl
    · exact hhigh
  · rw [hab, ho]
    rfl
  · obtain ⟨hi', hc'⟩ := hdraw hoff
    have exactly {β : Type} (f : State → β) := congrArg f (hu.still hoff).2
    have hlatch : u.ab.latch = s.ab.latch := exactly fun w => w.ab.latch
    rw [hi, hc, hi', hc', hab, hlatch]
    exact ⟨rfl, rfl, rfl⟩

/-! ### Read cycles -/

/-- From the mask to the sample. -/
def CycleKind.readOn (c : CycleKind) (body : Pick) : List Pick := cycleAddress body :: c.on

/-- A read cycle of the kind `c`, with the byte sampled. -/
def CycleKind.readCycle (c : CycleKind) (body : Pick) (sample : State → Except Fault (Byte × State)) (s : State) :
    Except Fault (Byte × State) :=
  seq opening s >>= fun u => seq (c.readOn body) u >>= fun v => sample v >>= fun x =>
    seq (c.off ++ [closing]) x.2 >>= fun t => pure (x.1, t)

/-- The sample of a cycle on `lines`: one micro-step, which changes no cell. -/
structure Samples (lines : List Signal) (sample : State → Except Fault (Byte × State)) (val : State → Byte)
    (step : State → MicroStep) : Prop where
  runs : ∀ v, MidCycle lines v → sample v = .ok (val v, v.performed 2 false (step v))
  inert : ∀ v, Inert (step v)
  inside : ∀ v, cycleStep lines (step v) = true

theorem samples_memory (lines : List Signal) :
    Samples lines sampleMemory State.memSample fun v => .sampleMem (v.abLines 0) v.memSample :=
  ⟨fun _ => sampleMemory_of_midCycle, fun _ _ => ⟨rfl, rfl⟩, fun _ => rfl⟩

theorem samples_port (lines : List Signal) :
    Samples lines sampleIoPort (State.dbLines · 1) fun v => .sampleIo (lowByte (v.abLines 0)) (v.dbLines 1) where
  runs v h := by
    have hp := perform_of_safe (k := 2) (ack := false) (m := .sampleIo (lowByte (v.abLines 0)) (v.dbLines 1)) rfl
      (h.performed rfl 2).contention
    rw [sampleIoPort, readStep_of_gap h.gap, hp]
    rfl
  inert _ _ := ⟨rfl, rfl⟩
  inside _ := rfl

/-- What the safe strobes leave of RAS, where they are all of them. -/
theorem CycleKind.ras_after_off {c : CycleKind} (hc : c.Strobes) (hfull : c.shape = .full) (s : State) :
    (c.offSteps.foldl MicroStep.apply s).signals.ras.lvl = .high := by
  obtain ⟨shape, strobe, h1, h2, h3, h4⟩ := c
  obtain rfl : shape = .full := hfull
  rcases hc with h | h | h | h <;> subst h <;> rfl

section
variable {c : CycleKind} (hc : c.Strobes) {s : State} {body : Pick} {A : Addr} (haddr : WritesAddress body s A)
include hc haddr

theorem CycleKind.picked_readOn {u : State} (hab : u.sansTicks.ab = s.sansTicks.ab) (hp : u.params = s.params) :
    picked (c.readOn body) u = addressStep s A :: c.onSteps s.params.timing ∧ draws (c.readOn body) u = 0 := by
  simp only [CycleKind.readOn, picked, draws, haddr u hab hp, CycleKind.picked_on hc, CycleKind.draws_on,
    State.performed_params, MicroStep.apply_params, hp, and_self]

theorem CycleKind.cells_readOn {u : State} (hab : u.sansTicks.ab = s.sansTicks.ab) (hp : u.params = s.params) :
    (ran (c.readOn body) u).ab = { u.ab with latch := if addressOpen s then A else u.ab.latch } ∧
      (ran (c.readOn body) u).db = u.db ∧ (ran (c.readOn body) u).memory = u.memory := by
  have cells := bare_ran (c.readOn body) u
  rw [(CycleKind.picked_readOn hc haddr hab hp).1, List.foldl_cons, apply_addressStep,
    foldl_strobeSteps (CycleKind.strobeSteps_on hc _)] at cells
  have same {β : Type} (f : State → β) := congrArg f cells
  exact ⟨same State.ab, same State.db, same State.memory⟩

/-- A read cycle completes, with the ticks that come before its mask; `v` is the state at the sample. -/
theorem CycleKind.readCycle_of_fit (hfit : CycleFit c.lines s) (hbody : CyclePick c.lines (cycleAddress body))
    {sample : State → Except Fault (Byte × State)} {val : State → Byte} {step : State → MicroStep}
    (hsample : Samples c.lines sample val step) :
    ∃ v t, c.readCycle body sample s = .ok (val v, t) ∧ Presents s A 0 v ∧ v.db = s.db ∧
      Performs s t (c.readSteps s A (step v)) ∧ (c.shape = .full → t.signals.ras.lvl = .high) := by
  obtain ⟨u, hu, hsu, hdraw⟩ := opening_of_fit hfit
  have same {β : Type} (f : State → β) := congrArg f hsu.cells
  have hab : u.sansTicks.ab = s.sansTicks.ab := same State.ab
  have hdb : u.db = s.db := same State.db
  have hon : ∀ p ∈ c.readOn body, CyclePick c.lines p :=
    List.forall_mem_cons.2 ⟨hbody, CycleKind.cyclePick_on hc⟩
  obtain ⟨hv, midv⟩ := seq_of_midCycle hon (hfit.midCycle hsu)
  obtain ⟨hvab, hvdb, hvmem⟩ := CycleKind.cells_readOn hc haddr hab hsu.params
  obtain ⟨hpicked, hdraws⟩ := CycleKind.picked_readOn hc haddr hab hsu.params
  have huv := (performs_ran_of_cyclePicks hon u).1
  have hvi := ran_inputs (c.readOn body) u
  have hvc := ran_drawCount (c.readOn body) u
  rw [hpicked] at huv
  rw [hdraws] at hvi hvc
  generalize ran (c.readOn body) u = v at *
  have midw := midv.performed (hsample.inside v) 2
  have hvw := performs_performed (hsample.inert v).ne_setRefresh 2 false v
  have hwt := (performs_ran_of_cyclePicks (CycleKind.cyclePick_off hc) (v.performed 2 false (step v))).2
  have ras := congrArg (fun t : State => t.signals.ras.lvl)
    (bare_ran (c.off ++ [closing]) (v.performed 2 false (step v)))
  rw [picked_append, CycleKind.picked_off hc, List.foldl_append] at ras
  rw [CycleKind.picked_off hc] at hwt
  refine ⟨v, _, ?_, presents_of_opened hsu hdraw hvab huv.params hvmem hvi hvc, hvdb.trans hdb,
    hsu.trans (huv.trans (hvw.trans hwt)), fun hfull => ras.trans (CycleKind.ras_after_off hc hfull _)⟩
  rw [CycleKind.readCycle, hu, ok_bind, hv, ok_bind, hsample.runs v midv, ok_bind,
    seq_closing (CycleKind.cyclePick_off hc) midw]
  rfl

end

/-! ### Write cycles -/

/-- The data bus made writable, the address and the data. -/
def dataPicks (body : Pick) (d : Byte) : List Pick := [dbSetwBody, cycleAddress body, dbWrBody d]

/-- From the mask to the byte's taking. -/
def CycleKind.writeOn (c : CycleKind) (body : Pick) (d : Byte) : List Pick := dataPicks body d ++ c.on

/-- A write cycle of the kind `c`, with the byte's taking. -/
def CycleKind.writeCycle (c : CycleKind) (body : Pick) (d : Byte) (take : State → State) (s : State) :
    Except Fault State :=
  seq opening s >>= fun u => seq (c.writeOn body d) u >>= fun v => seq ((c.off ++ [dbSetrBody]) ++ [closing]) (take v)

/-- What the target or a device does when it takes the byte. -/
structure Takes (take : State → State) (step : State → MicroStep) : Prop where
  performs : ∀ v, Performs v (take v) [step v]
  cells : ∀ v, (take v).bare = ((step v).apply v).bare
  inside : ∀ lines v, cycleStep lines (step v) = true
  memoryOnly : ∀ v, MemoryOnly (step v)

theorem takes_memory : Takes targetTakesByte fun v => .memWrite (v.abLines 0) (v.dbLines 1) :=
  ⟨performs_targetTakesByte, State.bare_targetTakesByte, fun _ _ => rfl, fun _ => memoryOnly_memWrite _ _⟩

theorem takes_port : Takes deviceTakesByte fun v => .ioWrite (lowByte (v.abLines 0)) (v.dbLines 1) :=
  ⟨performs_deviceTakesByte, State.bare_deviceTakesByte, fun _ _ => rfl, fun _ => memoryOnly_ioWrite _ _⟩

theorem dbSetwBody_eq {s u : State} (hu : u.db = s.db) :
    dbSetwBody u = (writeDraw s, setwStep s (u.drawnBool 0)) := by
  simp only [dbSetwBody, redundantStep, writeDraw, setwStep, hu]
  split <;> rfl

section
variable {s : State} {body : Pick} {A : Addr} (haddr : WritesAddress body s A) {u : State}
  (hab : u.sansTicks.ab = s.sansTicks.ab) (hp : u.params = s.params) (hdb : u.db = s.db) (d : Byte)
include haddr hab hp hdb

theorem picked_dataPicks : picked (dataPicks body d) u = dataSteps s A d (u.drawnBool 0) ∧
    draws (dataPicks body d) u = writeDraw s := by
  have hsetw := dbSetwBody_eq hdb
  generalize hv : u.performed (writeDraw s) false (setwStep s (u.drawnBool 0)) = v
  have hvab : v.sansTicks.ab = s.sansTicks.ab := by
    rw [← hv, ← hab]
    unfold setwStep
    split <;> rfl
  have hvp : v.params = s.params := by rw [← hv, State.performed_params, MicroStep.apply_params, hp]
  have hvdb : v.db.writable = true := by rw [← hv, State.performed_db, apply_setwStep hdb]
  have hvaddr := haddr v hvab hvp
  have hwdb : (v.performed 0 false (addressStep s A)).db.writable = true := by
    rw [State.performed_db, apply_addressStep, hvdb]
  have hwr := dbWrBody_of_writable hwdb d
  simp only [dataPicks, picked, draws, hsetw, hv, hvaddr, hwr, dataSteps, Nat.add_zero, and_self]

variable {c : CycleKind} (hc : c.Strobes)
include hc

theorem CycleKind.picked_writeOn :
    picked (c.writeOn body d) u = dataSteps s A d (u.drawnBool 0) ++ c.onSteps s.params.timing ∧
      draws (c.writeOn body d) u = writeDraw s := by
  obtain ⟨hpicked, hdraws⟩ := picked_dataPicks haddr hab hp hdb d
  have hparams := (does_ran (dataPicks body d) u).params
  rw [CycleKind.writeOn, picked_append, draws_append, hpicked, hdraws, CycleKind.picked_on hc, CycleKind.draws_on,
    hparams, hp]
  exact ⟨rfl, rfl⟩

theorem CycleKind.cells_writeOn :
    (ran (c.writeOn body d) u).ab = { u.ab with latch := if addressOpen s then A else u.ab.latch } ∧
      (ran (c.writeOn body d) u).db = ⟨d, writeMask s, true⟩ ∧ (ran (c.writeOn body d) u).memory = u.memory := by
  have cells := bare_ran (c.writeOn body d) u
  rw [(CycleKind.picked_writeOn haddr hab hp hdb d hc).1, List.foldl_append, foldl_dataSteps hdb,
    foldl_strobeSteps (CycleKind.strobeSteps_on hc _)] at cells
  have same {β : Type} (f : State → β) := congrArg f cells
  exact ⟨same State.ab, same State.db, same State.memory⟩

end

section
variable {c : CycleKind} (hc : c.Strobes)
include hc

theorem CycleKind.picked_writeOff {w : State} (hw : w.db.writable = true) :
    picked (c.off ++ [dbSetrBody]) w = c.offSteps ++ [.dbSetReadable] := by
  have kept := congrArg State.db (bare_ran c.off w)
  rw [CycleKind.picked_off hc, foldl_strobeSteps (CycleKind.strobeSteps_off hc)] at kept
  have hdb : (ran c.off w).db = w.db := kept
  have hsetr := dbSetrBody_of_writable (s := ran c.off w) (by rw [hdb, hw])
  simp only [picked_append, CycleKind.picked_off hc, picked, hsetr]

/-- A write cycle completes, with the ticks that come before its mask; `v` is the state where the byte is taken. -/
theorem CycleKind.writeCycle_of_fit {s : State} {body : Pick} {A : Addr} (haddr : WritesAddress body s A)
    (hfit : CycleFit c.lines s) (hread : strobesRead c.lines = false) (hbody : CyclePick c.lines (cycleAddress body))
    (d : Byte) {take : State → State} {step : State → MicroStep} (htake : Takes take step) :
    ∃ v t b, c.writeCycle body d take s = .ok t ∧ Presents s A (writeDraw s) v ∧ v.db = ⟨d, writeMask s, true⟩ ∧
      Performs s t (c.writeSteps s A d (step v) b) ∧ (c.shape = .full → t.signals.ras.lvl = .high) := by
  obtain ⟨u, hu, hsu, hdraw⟩ := opening_of_fit hfit
  have same {β : Type} (f : State → β) := congrArg f hsu.cells
  have hab : u.sansTicks.ab = s.sansTicks.ab := same State.ab
  have hdb : u.db = s.db := same State.db
  have hon : ∀ p ∈ c.writeOn body d, CyclePick c.lines p := by
    refine List.forall_mem_append.2 ⟨?_, CycleKind.cyclePick_on hc⟩
    simp [dataPicks, cyclePick_dbSetwBody hread, hbody]
  have hoff : ∀ p ∈ c.off ++ [dbSetrBody], CyclePick c.lines p :=
    List.forall_mem_append.2 ⟨CycleKind.cyclePick_off hc, List.forall_mem_singleton.2 (cyclePick_dbSetrBody hread)⟩
  obtain ⟨hv, midv⟩ := seq_of_midCycle hon (hfit.midCycle hsu)
  obtain ⟨hvab, hvdb, hvmem⟩ := CycleKind.cells_writeOn haddr hab hsu.params hdb d hc
  obtain ⟨hpicked, hdraws⟩ := CycleKind.picked_writeOn haddr hab hsu.params hdb d hc
  have huv := (performs_ran_of_cyclePicks hon u).1
  have hvi := ran_inputs (c.writeOn body d) u
  have hvc := ran_drawCount (c.writeOn body d) u
  rw [hpicked] at huv
  rw [hdraws] at hvi hvc
  generalize ran (c.writeOn body d) u = v at *
  obtain ⟨f, hf⟩ := htake.memoryOnly v
  have cells := htake.cells v
  have hwdb : (take v).db = v.db := by
    rw [hf] at cells
    have kept := congrArg State.db cells
    exact kept
  have midw : MidCycle c.lines (take v) := (midCycle_ofCells _).of_bare_eq cells (midv.apply (htake.inside _ v))
  have hwt := (performs_ran_of_cyclePicks hoff (take v)).2
  have ras := congrArg (fun t : State => t.signals.ras.lvl) (bare_ran ((c.off ++ [dbSetrBody]) ++ [closing]) (take v))
  rw [picked_append, CycleKind.picked_writeOff hc (by rw [hwdb, hvdb]), List.foldl_append, List.foldl_append] at ras
  rw [CycleKind.picked_writeOff hc (by rw [hwdb, hvdb])] at hwt
  refine ⟨v, _, _, ?_, presents_of_opened hsu hdraw hvab huv.params hvmem hvi hvc, hvdb,
    hsu.trans (huv.trans ((htake.performs v).trans hwt)), fun hfull => ras.trans (CycleKind.ras_after_off hc hfull _)⟩
  rw [CycleKind.writeCycle, hu, ok_bind, hv, ok_bind, seq_closing hoff midw]

end

end Sys2Proof.Machine

/-! ## BC.RDMEM, BC.WRMEM, BC.RDIO and BC.WRIO while `Mutable` -/

namespace Sys2Proof.Machine
open Sys2Proof.Claims

/-! ### The bodies are cycles -/

section
variable {s : State} (hm : s.mutable = true)
include hm

theorem rdmemBody_eq_readCycle (a : Addr) :
    rdmemBody a s = memReads.readCycle (abWraddrBody a) sampleMemory s := rdmemBody_of_mutable hm a

theorem wrmemBody_eq_writeCycle (a : Addr) (d : Byte) :
    wrmemBody a d s = memWrites.writeCycle (abWraddrBody a) d targetTakesByte s := wrmemBody_of_mutable hm a d

theorem rdioBody_eq_readCycle (p : Byte) :
    rdioBody p s = (portReads s.params.ioShape).readCycle (abWrioaddrBody p) sampleIoPort s := by
  have hsplit (ps : List Pick) : seq (opening ++ ps) s = seq opening s >>= seq ps := seq_append _ _ s
  rw [rdioBody, if_pos hm]
  split <;> rename_i hshape <;> rw [hshape]
  · show seq (opening ++ (portReads .full).readOn (abWrioaddrBody p)) s >>= _ = _
    rw [hsplit, bind_assoc]
    rfl
  · show seq (opening ++ (portReads .strobeOnly).readOn (abWrioaddrBody p)) s >>= _ = _
    rw [hsplit, bind_assoc]
    rfl

theorem wrioBody_eq_writeCycle (p d : Byte) :
    wrioBody p d s = (portWrites s.params.ioShape).writeCycle (abWrioaddrBody p) d deviceTakesByte s := by
  have hsplit (ps : List Pick) : seq (opening ++ ps) s = seq opening s >>= seq ps := seq_append _ _ s
  rw [wrioBody, if_pos hm]
  split <;> rename_i hshape <;> rw [hshape]
  · show seq (opening ++ (portWrites .full).writeOn (abWrioaddrBody p) d) s >>= _ = _
    rw [hsplit, bind_assoc]
    rfl
  · show seq (opening ++ (portWrites .strobeOnly).writeOn (abWrioaddrBody p) d) s >>= _ = _
    rw [hsplit, bind_assoc]
    rfl

end

/-! ### A cycle as a command -/

/-- A cycle leaves RAS an output where it was one. -/
theorem CycleKind.atRest_ras {c : CycleKind} (hc : c.Strobes) {g : Signals} (h : g.ras.dir = .output) :
    (c.atRest g).ras.dir = .output := by
  obtain ⟨shape, strobe, h1, h2, h3, h4⟩ := c
  cases shape with
  | full => rfl
  | strobeOnly => rcases hc with hs | hs | hs | hs <;> subst hs <;> exact h

theorem CycleKind.atRest_ras_of_full {c : CycleKind} (hfull : c.shape = .full) (g : Signals) :
    (c.atRest g).ras = ⟨.output, .high⟩ := by
  rw [CycleKind.atRest, hfull]
  rfl

/-- How a read cycle leaves BMC, up to what ticks write. -/
def CycleKind.afterRead (c : CycleKind) (s : State) (A : Addr) : State :=
  { s with signals := c.atRest s.signals, ab := { s.ab with latch := latchAfter s A } }

/-- How a write cycle leaves BMC, up to what ticks write, where the target does `m`. -/
def CycleKind.afterWrite (c : CycleKind) (s : State) (A : Addr) (d : Byte) (m : MicroStep) : State :=
  { s with
    signals := c.atRest s.signals
    ab := { s.ab with latch := latchAfter s A }
    db := ⟨d, 0, false⟩
    memory := (m.apply s).memory }

theorem ras_of_leaves {s e t : State} (h : Leaves s e t) (hdir : e.signals.ras.dir = .output)
    (hlvl : t.signals.ras.lvl = .high) : t.signals.ras = ⟨.output, .high⟩ := by
  have kept := congrArg (fun u : State => u.signals.ras.dir) h.1
  have hdir' : t.signals.ras.dir = .output := kept.trans hdir
  rw [← hdir', ← hlvl]

theorem unmasked_eq {s : State} (h : s.masked = false) : { s with masked := false } = s := by rw [← h]

section
variable {c : CycleKind} (hc : c.Strobes) {s : State} (hs : Inv s) (hfit : CycleFit c.lines s) {body : Pick} {A : Addr}
  (haddr : WritesAddress body s A) (hbody : CyclePick c.lines (cycleAddress body))
include hc hs hfit haddr hbody

/-- A read cycle and its response, with the ticks before the mask and before the response (log entry 21). -/
theorem CycleKind.read_responds (hread : strobesRead c.lines = true)
    {sample : State → Except Fault (Byte × State)} {val : State → Byte} {step : State → MicroStep}
    (hsample : Samples c.lines sample val step) (hstep : ∀ v, MemoryOnly (step v)) :
    ∃ v t, (c.readCycle body sample s >>= fun x => seq [respond (.byte x.1)] x.2) = .ok t ∧ Presents s A 0 v ∧
      v.db = s.db ∧
      t.idle.foregroundSteps = s.foregroundSteps ++ (c.readSteps s A (step v) ++ [.respond (.byte (val v))]) ∧
      Leaves s (c.afterRead s A) t.idle ∧ (c.shape = .full → t.idle.signals.ras = ⟨.output, .high⟩) := by
  obtain ⟨v, u, hu, hv, hdb, hsu, hras⟩ := CycleKind.readCycle_of_fit hc haddr hfit hbody hsample
  have hcells : (c.readSteps s A (step v)).foldl MicroStep.apply s = c.afterRead s A := by
    have hmem : ((step v).apply s).memory = s.memory := by rw [(hsample.inert v s).2]
    rw [CycleKind.foldl_readSteps hc hfit.outputs (hstep v), hmem]
    exact unmasked_eq (s := c.afterRead s A) hs.unmasked
  have same {β : Type} (f : State → β) : f u.bare.sansTicks = f (c.afterRead s A).bare.sansTicks := by
    rw [hsu.cells, hcells]
  have calm : Calm u := by
    have hmut : u.mutable = true := (same State.mutable).trans hfit.isMutable
    have hgranted : u.busGranted = true := (same State.busGranted).trans hfit.granted
    have hundriven : u.db.mask = 0 := (same fun w => w.db.mask).trans (hfit.undriven hread)
    have harmed : u.refreshEnabled = s.refreshEnabled := same State.refreshEnabled
    refine ⟨no_contention_of_granted (s := u.idle) hgranted hundriven, fun he => ?_, fun _ => hmut⟩
    exact (same fun w => w.signals.ras.dir).trans (CycleKind.atRest_ras hc (hfit.ready (harmed.symm.trans he)))
  obtain ⟨w, hw, hrespond, -, hut⟩ :=
    micro_of_inert calm (p := respond (.byte (val v))) (fun _ => rfl) (inert_respond _)
  have hst := hsu.trans hut
  have hleaves : Leaves s (c.afterRead s A) (w.performed 0 false (.respond (.byte (val v)))).idle := by
    have hend := hst.leaves (e := c.afterRead s A) (by rw [List.foldl_append, hcells]; rfl)
    rwa [State.idle_eq_self (s := c.afterRead s A) hs.idlePosition hs.idleDrive] at hend
  refine ⟨v, w.performed 0 false (.respond (.byte (val v))), ?_, hv, hdb, hst.foregroundSteps, hleaves, fun hfull => ?_⟩
  · rw [hu, ok_bind, seq_singleton, hrespond]
  · refine ras_of_leaves hleaves (congrArg Line.dir (CycleKind.atRest_ras_of_full hfull _)) ?_
    rcases (gap_ok hw).rasLevel with hlvl | hlvl
    · exact hlvl.trans (hras hfull)
    · exact hlvl

/-- A write cycle, with the ticks before the mask. -/
theorem CycleKind.write_completes (hread : strobesRead c.lines = false) (d : Byte) {take : State → State}
    {step : State → MicroStep} (htake : Takes take step) :
    ∃ v t b, c.writeCycle body d take s = .ok t ∧ Presents s A (writeDraw s) v ∧ v.db = ⟨d, writeMask s, true⟩ ∧
      t.idle.foregroundSteps = s.foregroundSteps ++ c.writeSteps s A d (step v) b ∧
      Leaves s (c.afterWrite s A d (step v)) t.idle ∧
      (c.shape = .full → t.idle.signals.ras = ⟨.output, .high⟩) := by
  obtain ⟨v, t, b, ht, hv, hdb, hst, hras⟩ := CycleKind.writeCycle_of_fit hc haddr hfit hread hbody d htake
  have hcells : (c.writeSteps s A d (step v) b).foldl MicroStep.apply s = c.afterWrite s A d (step v) := by
    rw [CycleKind.foldl_writeSteps hc hfit.outputs (htake.memoryOnly v)]
    exact unmasked_eq (s := c.afterWrite s A d (step v)) hs.unmasked
  have hleaves := hst.leaves (congrArg State.bare hcells)
  rw [State.idle_eq_self (s := c.afterWrite s A d (step v)) hs.idlePosition hs.idleDrive] at hleaves
  exact ⟨v, t, b, ht, hv, hdb, hst.foregroundSteps, hleaves, fun hfull =>
    ras_of_leaves hleaves (congrArg Line.dir (CycleKind.atRest_ras_of_full hfull _)) (hras hfull)⟩

end

/-! ### What is read and written -/

theorem targetByte_of_unknown {s : State} {a : Addr} (h : ∀ b, ¬ Holds s a b) (k : Nat) :
    s.targetByte a k = BitVec.ofNat 8 (s.drawn k) := by
  unfold State.targetByte
  split
  · next d hd =>
    split at hd
    · next hr => exact absurd ⟨hr, hd⟩ (h d)
    · cases hd
  · rfl

theorem holds_congr {s v : State} (hp : v.params = s.params) (hm : v.memory = s.memory) (x : Addr) (b : Byte) :
    Holds v x b ↔ Holds s x b := by rw [Holds, Holds, hp, hm]

theorem lowByte_eq_extractLsb' (v : Addr) : lowByte v = v.extractLsb' 0 8 :=
  BitVec.eq_of_toNat_eq (by simp [lowByte, BitVec.extractLsb'_toNat])

theorem lowByte_ioLatch (s : State) (p : Byte) : (ioLatch s p).extractLsb' 0 8 = p := by
  rw [← lowByte_eq_extractLsb']
  unfold ioLatch lowByte
  split
  · exact BitVec.setWidth_append_eq_right
  · simp

theorem Presents.port_masked {s v : State} {p : Byte} {k : Nat} (h : Presents s (ioLatch s p) k v)
    (hw : s.ab.writable = true) :
    lowByte (v.abLines 0) &&& s.ab.mask.extractLsb' 0 8 = p &&& s.ab.mask.extractLsb' 0 8 := by
  rw [lowByte_eq_extractLsb', ← BitVec.extractLsb'_and, h.abLines_masked hw, BitVec.extractLsb'_and, lowByte_ioLatch]

section
variable {s v : State} {A : Addr} {d : Byte} (h : Presents s A (writeDraw s) v) (hdb : v.db = ⟨d, writeMask s, true⟩)
include hdb

theorem written_masked : v.dbLines 1 &&& writeMask s = d &&& writeMask s := by
  rw [State.dbLines, hdb]
  exact shown_and_mask _ _ _

theorem written_of_driven (hw : s.db.writable = false ∨ s.db.mask = 0xFF) : v.dbLines 1 = d := by
  have hmask : writeMask s = 0xFF := by
    unfold writeMask
    split
    · next hflag => exact hw.resolve_left (by simp [hflag])
    · rfl
  have hvmask : v.db.mask = 0xFF := by rw [hdb, ← hmask]
  rw [dbLines_of_driven hvmask, hdb]

include h

theorem written_still (hoff : s.refreshEnabled = false) :
    v.dbLines 1 = shown d (writeMask s) (dbEnv s (writeDraw s + 1)) := by
  rw [State.dbLines, h.drawn hoff, hdb]
  rfl

end

/-! ### The obligations -/

/-- Settles O38. -/
theorem memoryReadCycle : Obligations.MemoryReadCycle := by
  refine fun a s => ⟨coded_of_layout rfl, fun h hd => ?_⟩
  have hidle := State.idle_eq_self h.inv.idlePosition h.inv.idleDrive
  obtain ⟨v, t, ht, hv, hdb, hsteps, hleaves, hras⟩ := CycleKind.read_responds (c := memReads) (.inl rfl) h.inv
    (fit_of_cycleReady h fun _ => hd) (writesAddress_abWraddr s a) (cyclePick_address a) rfl (samples_memory _)
    fun _ => memoryOnly_sampleMem _ _
  have hbyte : v.memSample = v.targetByte (v.abLines 0) 1 := Bus.lines_undriven (by rw [hdb, hd]) _
  have known := holds_congr hv.params hv.memory (v.abLines 0)
  refine ⟨t.idle, v.abLines 0, v.memSample, ?_, hsteps, hleaves, hras rfl, hv.abLines_high, hv.abLines_masked,
    fun b hb => ?_, fun hoff => ⟨hv.abLines_still hoff, fun hb => ?_⟩⟩
  · unfold exec execBcRdmem
    refine command_of_ok ?_
    rw [hidle, rdmemBody_eq_readCycle h.isMutable]
    exact ht
  · exact hbyte.trans (targetByte_of_holds ((known b).2 hb) 1)
  · rw [hbyte, targetByte_of_unknown fun b => mt (known b).1 (hb b), hv.drawn hoff]
    rfl

/-- Settles O39. -/
theorem memoryWriteCycle : Obligations.MemoryWriteCycle := by
  refine fun a d s => ⟨coded_of_layout rfl, fun h => ?_⟩
  have hidle := State.idle_eq_self h.inv.idlePosition h.inv.idleDrive
  obtain ⟨v, t, b, ht, hv, hdb, hsteps, hleaves, hras⟩ := CycleKind.write_completes (c := memWrites) (.inr (.inl rfl))
    h.inv (fit_of_cycleReady h nofun) (writesAddress_abWraddr s a) (cyclePick_address a) rfl d takes_memory
  refine ⟨t.idle, v.abLines 0, v.dbLines 1, b, ?_, hsteps, hleaves, hras rfl, hv.abLines_high, hv.abLines_masked,
    written_masked hdb, written_of_driven hdb, fun hoff => ⟨hv.abLines_still hoff, written_still hv hdb hoff⟩⟩
  refine command_of_ok ?_
  rw [hidle, wrmemBody_eq_writeCycle h.isMutable]
  exact ht

theorem portReadSteps_eq (s : State) (p x d : Byte) :
    portReadSteps s p x d =
      (portReads s.params.ioShape).readSteps s (ioLatch s p) (.sampleIo x d) ++ [.respond (.byte d)] := by
  unfold portReadSteps
  split <;> rename_i hshape <;> rw [hshape] <;> rfl

theorem portWriteSteps_eq (s : State) (p d x y : Byte) (b : Bool) :
    portWriteSteps s p d x y b = (portWrites s.params.ioShape).writeSteps s (ioLatch s p) d (.ioWrite x y) b := by
  unfold portWriteSteps
  split <;> rename_i hshape <;> rw [hshape] <;> rfl

theorem ioLines_eq_lines (s : State) : ioLines s.params .ioIn = (portReads s.params.ioShape).lines ∧
    ioLines s.params .ioOut = (portWrites s.params.ioShape).lines := by
  unfold ioLines
  split <;> rename_i hshape <;> rw [hshape] <;> exact ⟨rfl, rfl⟩

/-- Settles O40. -/
theorem portReadCycle : Obligations.PortReadCycle := by
  refine fun p s => ⟨coded_of_layout rfl, fun h hd => ?_⟩
  have hidle := State.idle_eq_self h.inv.idlePosition h.inv.idleDrive
  rw [(ioLines_eq_lines s).1] at h
  have hread : strobesRead (portReads s.params.ioShape).lines = true := by cases s.params.ioShape <;> rfl
  obtain ⟨v, t, ht, hv, hdb, hsteps, hleaves, hras⟩ := CycleKind.read_responds (c := portReads s.params.ioShape)
    (.inr (.inr (.inl rfl))) h.inv (fit_of_cycleReady h fun _ => hd) (writesAddress_abWrioaddr s p)
    (cyclePick_ioAddress p) hread (samples_port _) fun _ => memoryOnly_sampleIo _ _
  refine ⟨t.idle, lowByte (v.abLines 0), v.dbLines 1, ?_, ?_, ?_, hras, hv.port_masked, fun hoff => ⟨?_, ?_⟩⟩
  · unfold exec execBcRdio
    refine command_of_ok ?_
    rw [hidle, rdioBody_eq_readCycle h.isMutable]
    exact ht
  · rw [portReadSteps_eq]
    exact hsteps
  · unfold CycleKind.afterRead CycleKind.atRest at hleaves
    split <;> rename_i hshape <;> rw [hshape] at hleaves <;> exact hleaves
  · rw [lowByte_eq_extractLsb', hv.abLines_still hoff]
    rfl
  · rw [State.dbLines, Bus.lines_undriven (by rw [hdb, hd]), hv.drawn hoff]
    rfl

/-- Settles O41. -/
theorem portWriteCycle : Obligations.PortWriteCycle := by
  refine fun p d s => ⟨coded_of_layout rfl, fun h => ?_⟩
  have hidle := State.idle_eq_self h.inv.idlePosition h.inv.idleDrive
  rw [(ioLines_eq_lines s).2] at h
  have hread : strobesRead (portWrites s.params.ioShape).lines = false := by cases s.params.ioShape <;> rfl
  obtain ⟨v, t, b, ht, hv, hdb, hsteps, hleaves, hras⟩ := CycleKind.write_completes (c := portWrites s.params.ioShape)
    (.inr (.inr (.inr rfl))) h.inv (fit_of_cycleReady h fun hr => absurd (hread.symm.trans hr) (by simp))
    (writesAddress_abWrioaddr s p) (cyclePick_ioAddress p) hread d takes_port
  refine ⟨t.idle, lowByte (v.abLines 0), v.dbLines 1, b, ?_, ?_, ?_, hras, hv.port_masked, written_masked hdb,
    written_of_driven hdb, fun hoff => ⟨?_, written_still hv hdb hoff⟩⟩
  · refine command_of_ok ?_
    rw [hidle, wrioBody_eq_writeCycle h.isMutable]
    exact ht
  · rw [portWriteSteps_eq]
    exact hsteps
  · unfold CycleKind.afterWrite CycleKind.atRest at hleaves
    split <;> rename_i hshape <;> rw [hshape] at hleaves <;> exact hleaves
  · rw [lowByte_eq_extractLsb', hv.abLines_still hoff]
    rfl

end Sys2Proof.Machine

/-! ## Bulk commands while `Mutable` (43_bus_cycles.md R229 to R234)

On a held bus every cycle completes and holds the bus again, so a loop of cycles is its micro-steps in order. What those
make of the cells is said once for a write, `wrote`, and once for a read, `readAt`. -/

namespace Sys2Proof.Machine
open Sys2Proof.Claims

/-! ### Addresses and lists -/

theorem bulkAddr_eq_nth (a : Addr) (k : Nat) : bulkAddr a k = nth a k := by
  simp [bulkAddr, nth, BitVec.ofNat_add]

/-- The addresses of one bulk command are different (R234). -/
theorem nth_inj {a : Addr} {j k : Nat} (hj : j < 65536) (hk : k < 65536) (h : nth a j = nth a k) : j = k := by
  have hnat := congrArg BitVec.toNat h
  simp only [nth, BitVec.toNat_ofNat] at hnat
  omega

theorem getElem?_eq_some_getD {l : List Nat} {j : Nat} (h : j < l.length) : l[j]? = some (l.getD j 0) := by
  simp [List.getD_eq_getElem?_getD, h]

/-! ### Target memory after the writes of a bulk command (20_memory.md R66) -/

theorem writes_append (rs : List (Nat × Nat)) (ws vs : List (Addr × Byte)) (m : Memory) :
    writes rs (ws ++ vs) m = writes rs vs (writes rs ws m) := List.foldl_append

theorem writes_singleton (rs : List (Nat × Nat)) (w : Addr × Byte) (m : Memory) :
    writes rs [w] m = if inRegions rs w.1 then m.write w.1.toNat w.2 else m := rfl

theorem read_writes_singleton_other {rs : List (Nat × Nat)} {w : Addr × Byte} {x : Addr}
    (h : inRegions rs w.1 = true → w.1 ≠ x) (m : Memory) : (writes rs [w] m).read x.toNat = m.read x.toNat := by
  rw [writes_singleton]
  split
  · next hr => exact Memory.read_write_other _ _ fun hx => h hr (BitVec.eq_of_toNat_eq hx.symm)
  · rfl

/-- An address that no write in RAM_REGIONS hits keeps its byte. -/
theorem read_writes_of_avoided {rs : List (Nat × Nat)} {ws : List (Addr × Byte)} {x : Addr}
    (h : ∀ w ∈ ws, inRegions rs w.1 = true → w.1 ≠ x) (m : Memory) :
    (writes rs ws m).read x.toNat = m.read x.toNat := by
  induction ws generalizing m with
  | nil => rfl
  | cons w ws ih =>
    rw [← List.singleton_append, writes_append, ih fun v hv => h v (List.mem_cons_of_mem _ hv)]
    exact read_writes_singleton_other (h w List.mem_cons_self) m

/-- An address of RAM_REGIONS holds what its writes agree on. -/
theorem read_writes_of_written {rs : List (Nat × Nat)} {ws : List (Addr × Byte)} {x : Addr} {d : Byte}
    (hr : inRegions rs x = true) (hx : ∃ w ∈ ws, w.1 = x) (hd : ∀ w ∈ ws, w.1 = x → w.2 = d) (m : Memory) :
    (writes rs ws m).read x.toNat = some d := by
  induction ws using List.reverseRecOn with
  | nil =>
    obtain ⟨w, hw, -⟩ := hx
    cases hw
  | append_singleton ws w ih =>
    rw [writes_append]
    by_cases hw : w.1 = x
    · rw [writes_singleton, hw, if_pos hr, Memory.read_write_same, hd w (by simp) hw]
    · rw [read_writes_singleton_other fun _ => hw]
      refine ih ?_ fun v hv => hd v (List.mem_append_left _ hv)
      obtain ⟨v, hv, hvx⟩ := hx
      refine ⟨v, (List.mem_append.1 hv).resolve_right fun hmem => ?_, hvx⟩
      exact hw (List.mem_singleton.1 hmem ▸ hvx)

/-! ### Cycles on a held bus, exact where refresh is off -/

section
variable {s : State} (h : BusHeld s)
include h

theorem BusHeld.addressOpen : addressOpen s = true := by simp [Claims.addressOpen, h.abWritable, h.abMask]

theorem wrmemBody_performs (a : Addr) (d : Byte) :
    ∃ t, wrmemBody a d s = .ok t ∧ BusHeld t ∧ Performs s t (heldWriteSteps s.params.timing a d) := by
  obtain ⟨t, ht, held, -⟩ := wrmemBody_of_busHeld h a d
  obtain ⟨v, u, b, hu, hv, hdb, hsu, -⟩ := CycleKind.writeCycle_of_fit (c := memWrites) (.inr (.inl rfl))
    (writesAddress_abWraddr s a) (h.fit (by decide)) rfl (cyclePick_address a) d takes_memory
  rw [← wrmemBody_eq_writeCycle h.isMutable] at hu
  obtain rfl : t = u := Except.ok.inj (ht.symm.trans hu)
  have haddr : v.abLines 0 = a :=
    (abLines_of_driven (hv.abMask.trans h.abMask) 0).trans (hv.opened h.addressOpen)
  rw [haddr, written_of_driven hdb (.inl h.dbReadable)] at hsu
  refine ⟨t, ht, held, ?_⟩
  rwa [CycleKind.writeSteps, dataSteps, setwStep, h.dbReadable, h.addressStep] at hsu

theorem rdmemBody_performs (a : Addr) :
    ∃ d t, rdmemBody a s = .ok (d, t) ∧ BusHeld t ∧ Performs s t (heldReadSteps s.params.timing a d) ∧
      ∀ b, Holds s a b → d = b := by
  obtain ⟨d, t, ht, held, -, hd⟩ := rdmemBody_of_busHeld h a
  obtain ⟨v, u, hu, hv, hdb, hsu, -⟩ := CycleKind.readCycle_of_fit (c := memReads) (.inl rfl)
    (writesAddress_abWraddr s a) (h.fit (by decide)) (cyclePick_address a) (samples_memory _)
  rw [← rdmemBody_eq_readCycle h.isMutable] at hu
  obtain ⟨rfl, rfl⟩ := Prod.mk.inj (Except.ok.inj (ht.symm.trans hu))
  have haddr : v.abLines 0 = a :=
    (abLines_of_driven (hv.abMask.trans h.abMask) 0).trans (hv.opened h.addressOpen)
  rw [haddr] at hsu
  refine ⟨_, t, ht, held, ?_, hd⟩
  rwa [CycleKind.readSteps, h.addressStep] at hsu

theorem micro_performs {m : MicroStep} (hm : Inert m) :
    ∃ t, micro false (act m) s = .ok t ∧ BusHeld t ∧ Performs s t [m] := by
  obtain ⟨t, ht, held, -⟩ := micro_of_busHeld h (fun v => (hm v).1) fun v hv => (hm v).2.symm ▸ hv
  obtain ⟨v, -, hv, -, hsv⟩ := micro_of_inert (h.fit (lines := []) (by simp)).calm (p := act m) (fun _ => rfl) hm
  obtain rfl : t = v.performed 0 false m := Except.ok.inj (ht.symm.trans hv)
  exact ⟨_, ht, held, hsv⟩

end

/-! ### What a loop of cycles makes of the cells -/

/-- The bus held between two cycles of a command, with the parameters `p`. -/
structure Between (p : Params) (s : State) : Prop where
  held : BusHeld s
  unmasked : s.masked = false
  params : s.params = p

/-- A write cycle leaves the latches and the byte. -/
def wrote (s : State) (w : Addr × Byte) : State :=
  { s with
    ab := { s.ab with latch := w.1 }
    db := { s.db with latch := w.2 }
    memory := writes s.params.ramRegions [w] s.memory }

/-- A read cycle leaves the address latch. -/
def readAt (s : State) (a : Addr) : State := { s with ab := { s.ab with latch := a } }

theorem Between.readAt {p : Params} {s : State} (h : Between p s) (a : Addr) : Between p (readAt s a) := by
  obtain ⟨⟨hm, hg, ha, hw, hd, hr, hn⟩, hmask, hp⟩ := h
  exact ⟨⟨hm, hg, ha, hw, hd, hr, hn⟩, hmask, hp⟩

theorem Between.wrote {p : Params} {s : State} (h : Between p s) (w : Addr × Byte) : Between p (wrote s w) := by
  obtain ⟨⟨hm, hg, ha, hw, hd, hr, hn⟩, hmask, hp⟩ := h
  exact ⟨⟨hm, hg, ha, hw, hd, hr, hn⟩, hmask, hp⟩

/-- The strobes of a memory cycle leave the resting lines as they are. -/
theorem BusHeld.strobed_eq {s : State} (h : BusHeld s) {n : Signal} (hn : n = .rd ∨ n = .wr) :
    strobed s.signals n = s.signals := by
  have hstrobes : ((strobeWrites n).foldl MicroStep.apply s).signals = strobed s.signals n := by
    have hs : ∀ k ∈ (CycleKind.mk .full n .tR1 .tR2 .tR3 .tR4).lines, (s.line k).dir = .output := fun k hk =>
      congrArg Line.dir (h.resting k (by
        rcases hn with rfl | rfl <;> revert k <;> decide))
    have hc : (CycleKind.mk .full n .tR1 .tR2 .tR3 .tR4).Strobes := hn.imp_right .inl
    have hsignals := CycleKind.signals_strobed hc hs s.params.timing
    rw [signals_foldl_apply _ rfl] at hsignals
    rcases hn with rfl | rfl <;> exact hsignals
  exact hstrobes.symm.trans (h.foldl_strobeWrites hn)

section
variable {p : Params} {s : State} (h : Between p s)
include h

theorem foldl_heldReadSteps_eq (a : Addr) (d : Byte) :
    (heldReadSteps p.timing a d).foldl MicroStep.apply s = readAt s a := by
  have hcells := CycleKind.foldl_readSteps (c := memReads) (.inl rfl) (h.held.fit (by decide)).outputs
    (memoryOnly_sampleMem a d) a
  have hrest : memReads.atRest s.signals = s.signals := h.held.strobed_eq (.inl rfl)
  rw [CycleKind.readSteps, h.held.addressStep, hrest, latchAfter, if_pos h.held.addressOpen] at hcells
  rw [← h.params]
  exact hcells.trans (unmasked_eq (s := readAt s a) h.unmasked)

theorem foldl_heldWriteSteps_eq (a : Addr) (d : Byte) :
    (heldWriteSteps p.timing a d).foldl MicroStep.apply s = wrote s (a, d) := by
  have hcells := CycleKind.foldl_writeSteps (c := memWrites) (.inr (.inl rfl)) (h.held.fit (by decide)).outputs
    (memoryOnly_memWrite a d) a d false
  have hrest : memWrites.atRest s.signals = s.signals := h.held.strobed_eq (.inr rfl)
  have hbus : ({ s.db with latch := d } : Bus 8) = ⟨d, 0, false⟩ := by rw [← h.held.dbMask, ← h.held.dbReadable]
  rw [CycleKind.writeSteps, dataSteps, setwStep, h.held.dbReadable, h.held.addressStep, hrest, latchAfter,
    if_pos h.held.addressOpen, ← hbus] at hcells
  rw [← h.params]
  exact hcells.trans (unmasked_eq (s := wrote s (a, d)) h.unmasked)

/-- A loop whose rounds, of the micro-steps `steps x`, make `g` of the cells. -/
theorem foldl_flatMap_between {α : Type} {steps : α → List MicroStep} {g : State → α → State}
    (hsteps : ∀ s x, Between p s → (steps x).foldl MicroStep.apply s = g s x)
    (hg : ∀ s x, Between p s → Between p (g s x)) (xs : List α) :
    (xs.flatMap steps).foldl MicroStep.apply s = xs.foldl g s := by
  induction xs generalizing s with
  | nil => rfl
  | cons x xs ih =>
    rw [List.flatMap_cons, List.foldl_append, hsteps s x h, List.foldl_cons]
    exact ih (hg s x h)

end

theorem foldl_wrote {ws : List (Addr × Byte)} (hws : ws ≠ []) (s : State) :
    ws.foldl wrote s =
      { s with
        ab := { s.ab with latch := (ws.getLast hws).1 }
        db := { s.db with latch := (ws.getLast hws).2 }
        memory := writes s.params.ramRegions ws s.memory } := by
  induction ws generalizing s with
  | nil => exact absurd rfl hws
  | cons w ws ih =>
    cases ws with
    | nil => rfl
    | cons v ws => exact (ih (List.cons_ne_nil v ws) (wrote s w))

theorem foldl_readAt {as : List Addr} (has : as ≠ []) (s : State) : as.foldl readAt s = readAt s (as.getLast has) := by
  induction as generalizing s with
  | nil => exact absurd rfl has
  | cons a as ih =>
    cases as with
    | nil => rfl
    | cons b as => exact ih (List.cons_ne_nil b as) (readAt s a)

/-! ### The loops -/

/-- The micro-steps of one byte of BC.COPY: `x` is its index and the byte. -/
def copySteps (T : Timing) (src dst : Addr) (x : Nat × Byte) : List MicroStep :=
  heldReadSteps T (nth src x.1) x.2 ++ heldWriteSteps T (nth dst x.1) x.2

/-- A known byte that a write does not hit stays known. -/
theorem holds_after_write {u w : State} {T : Timing} {a x : Addr} {d b : Byte}
    (hw : Performs u w (heldWriteSteps T a d)) (hx : a ≠ x) (hb : Holds u x b) : Holds w x b := by
  have hmem : w.memory = writes u.params.ramRegions [(a, d)] u.memory := hw.memory
  obtain ⟨hr, hread⟩ := hb
  refine ⟨by rw [hw.params, hr], ?_⟩
  rw [hmem, read_writes_singleton_other fun _ => hx, hread]

section
variable {s : State} (h : BusHeld s)
include h

theorem forEach_wrmem_performs (f : Nat → Addr × Byte) (ks : List Nat) :
    ∃ t, forEach (fun k => wrmemBody (f k).1 (f k).2) ks s = .ok t ∧ BusHeld t ∧
      Performs s t (ks.flatMap fun k => heldWriteSteps s.params.timing (f k).1 (f k).2) := by
  induction ks generalizing s with
  | nil => exact ⟨s, rfl, h, .refl s⟩
  | cons k ks ih =>
    obtain ⟨u, hu, heldu, hsu⟩ := wrmemBody_performs h (f k).1 (f k).2
    obtain ⟨t, ht, heldt, hut⟩ := ih heldu
    rw [hsu.params] at hut
    exact ⟨t, by rw [forEach_cons, hu, ok_bind, ht], heldt, hsu.trans hut⟩

theorem readBytes_performs (a : Addr) (ks : List Nat) :
    ∃ (ds : List Byte) (t : State), readBytes a ks s = .ok (ds, t) ∧ BusHeld t ∧ ds.length = ks.length ∧
      Performs s t ((ks.zip ds).flatMap fun x => heldReadSteps s.params.timing (nth a x.1) x.2) ∧
      ∀ (j k : Nat) (b : Byte), ks[j]? = some k → Holds s (nth a k) b → ds[j]? = some b := by
  induction ks generalizing s with
  | nil => exact ⟨[], s, rfl, h, rfl, .refl s, nofun⟩
  | cons k ks ih =>
    obtain ⟨d, u, hu, heldu, hsu, hd⟩ := rdmemBody_performs h (nth a k)
    obtain ⟨ds, t, ht, heldt, hlen, hut, hds⟩ := ih heldu
    have hmem : u.memory = s.memory := hsu.memory
    rw [hsu.params] at hut
    refine ⟨d :: ds, t, ?_, heldt, congrArg Nat.succ hlen, hsu.trans hut, fun j i b hj hb => ?_⟩
    · rw [readBytes, bulkAddr_eq_nth, hu, ok_bind]
      show readBytes a ks u >>= _ = _
      rw [ht]
      rfl
    · cases j with
      | zero =>
        obtain rfl : k = i := Option.some.inj hj
        exact congrArg some (hd b hb)
      | succ j => exact hds j i b hj ((holds_congr hsu.params hmem _ b).2 hb)

theorem forEach_copyByte_performs (src dst : Addr) (ks : List Nat) :
    ∃ (vs : List Byte) (t : State), forEach (copyByte src dst) ks s = .ok t ∧ BusHeld t ∧ vs.length = ks.length ∧
      Performs s t ((ks.zip vs).flatMap (copySteps s.params.timing src dst)) ∧
      ∀ (j k : Nat) (b : Byte), ks[j]? = some k → Holds s (nth src k) b →
        (∀ i k' : Nat, i < j → ks[i]? = some k' → nth dst k' ≠ nth src k) → vs[j]? = some b := by
  induction ks generalizing s with
  | nil => exact ⟨[], s, rfl, h, rfl, .refl s, nofun⟩
  | cons k ks ih =>
    obtain ⟨v, u, hu, heldu, hsu, hv⟩ := rdmemBody_performs h (nth src k)
    obtain ⟨w, hw, heldw, huw⟩ := wrmemBody_performs heldu (nth dst k) v
    obtain ⟨vs, t, ht, heldt, hlen, hwt, hvs⟩ := ih heldw
    have hmem : u.memory = s.memory := hsu.memory
    rw [huw.params, hsu.params] at hwt
    rw [hsu.params] at huw
    refine ⟨v :: vs, t, ?_, heldt, congrArg Nat.succ hlen, (hsu.trans huw).trans hwt, fun j i b hj hb hover => ?_⟩
    · rw [forEach_cons, copyByte, bulkAddr_eq_nth, bulkAddr_eq_nth, hu, ok_bind]
      show wrmemBody (nth dst k) v u >>= _ = _
      rw [hw, ok_bind, ht]
    · cases j with
      | zero =>
        obtain rfl : k = i := Option.some.inj hj
        exact congrArg some (hv b hb)
      | succ j =>
        refine hvs j i b hj ?_ fun i' k' hi hk => hover (i' + 1) k' (Nat.succ_lt_succ hi) hk
        exact holds_after_write huw (hover 0 k (Nat.succ_pos j) rfl) ((holds_congr hsu.params hmem _ b).2 hb)

end

end Sys2Proof.Machine

/-! ## The bulk commands' statements (43_bus_cycles.md R229 to R234) -/

namespace Sys2Proof.Machine
open Sys2Proof.Claims

/-! ### What a loop shows on the channels -/

theorem filterMap_flatMap_eq_nil {α β : Type} {steps : α → List MicroStep} {f : MicroStep → Option β}
    (h : ∀ x, (steps x).filterMap f = []) (xs : List α) : (xs.flatMap steps).filterMap f = [] := by
  simp [List.filterMap_flatMap, h]

theorem filter_flatMap_eq {α : Type} {steps : α → List MicroStep} {p : MicroStep → Bool} {g : α → List MicroStep}
    (h : ∀ x, (steps x).filter p = g x) (xs : List α) : (xs.flatMap steps).filter p = xs.flatMap g := by
  simp [List.filter_flatMap, h]

theorem BusHeld.disciplined {i : Instr} {s t : State} (hs : Disciplined s) (ht : exec i s = .next t) (h : BusHeld t) :
    Disciplined t := ⟨exec_keeps_inv hs.inv ht, fun _ => h⟩

theorem Disciplined.between {s : State} (hs : Disciplined s) (hm : s.mutable = true) : Between s.params s :=
  ⟨hs.held hm, hs.inv.unmasked, rfl⟩

theorem range_map_getLast {α : Type} (f : Nat → α) {n : Nat} (h : (List.range n).map f ≠ []) :
    ((List.range n).map f).getLast h = f (n - 1) := by
  simp [List.getLast_eq_getElem]

theorem range_map_ne_nil {α : Type} (f : Nat → α) {n : Nat} (hn : n ≠ 0) : (List.range n).map f ≠ [] := by
  simpa using hn

theorem Leaves.memory {s e t : State} (h : Leaves s e t) : t.memory = e.memory := by
  have kept := congrArg State.memory h.1
  exact kept

/-! ### BC.WRMEMN and BC.FILL -/

section
variable {i : Instr} {s : State} (hs : Disciplined s) (hm : s.mutable = true)
include hs hm

/-- A command that is a loop of write cycles, of `f k` for each index. -/
theorem exec_writes {f : Nat → Addr × Byte} {n : Nat} (hn : n ≠ 0)
    (hi : exec i s = command (forEach (fun k => wrmemBody (f k).1 (f k).2) (List.range n)) s) :
    ∃ t, exec i s = .next t ∧ Disciplined t ∧ t.responses = s.responses ∧ t.logs = s.logs ∧
      t.busCycles = s.busCycles ++ (List.range n).map (fun k => .memWrite (f k).1 (f k).2) ∧
      Leaves s { s with
        ab := { s.ab with latch := (f (n - 1)).1 }
        db := { s.db with latch := (f (n - 1)).2 }
        memory := writes s.params.ramRegions ((List.range n).map f) s.memory } t := by
  have hidle := State.idle_eq_self hs.inv.idlePosition hs.inv.idleDrive
  obtain ⟨t, ht, held, hst⟩ := forEach_wrmem_performs (hs.held hm) f (List.range n)
  have hexec : exec i s = .next t.idle := hi.trans (command_of_ok (by rw [hidle, ht]))
  have hcells : ((List.range n).flatMap fun k => heldWriteSteps s.params.timing (f k).1 (f k).2).foldl MicroStep.apply s
      = ((List.range n).map f).foldl wrote s := by
    rw [List.foldl_map]
    exact foldl_flatMap_between (hs.between hm) (fun u k hu => foldl_heldWriteSteps_eq hu _ _)
      (fun u k hu => hu.wrote _) _
  rw [foldl_wrote (range_map_ne_nil f hn), range_map_getLast] at hcells
  refine ⟨t.idle, hexec, (busHeld_ofCells.of_bare_eq (State.bare_idle t) held).disciplined hs hexec, ?_, ?_, ?_, ?_⟩
  · exact hst.responses.trans (by rw [filterMap_flatMap_eq_nil (f := responseOf) fun _ => rfl, List.append_nil])
  · exact hst.logs.trans (by rw [filterMap_flatMap_eq_nil (f := logOf) fun _ => rfl, List.append_nil])
  · exact hst.busCycles.trans (by rw [filter_flatMap_eq (p := isBusCycle)
      (g := fun k => [MicroStep.memWrite (f k).1 (f k).2]) fun _ => rfl, ← List.map_eq_flatMap])
  · exact hidle ▸ hst.leaves (congrArg State.bare hcells)

end

/-- The memory half of a command that wrote `f k` at `nth a k`. -/
theorem read_after_bulk {rs : List (Nat × Nat)} {a : Addr} {f : Nat → Byte} {n : Nat} (hn : n ≤ 65536) (m : Memory) :
    (∀ k, k < n → inRegions rs (nth a k) = true →
      (writes rs ((List.range n).map fun k => (nth a k, f k)) m).read (nth a k).toNat = some (f k)) ∧
    ∀ x : Addr, (∀ k, k < n → inRegions rs (nth a k) = true → nth a k ≠ x) →
      (writes rs ((List.range n).map fun k => (nth a k, f k)) m).read x.toNat = m.read x.toNat := by
  refine ⟨fun k hk hr => read_writes_of_written hr ⟨(nth a k, f k), by simpa using ⟨k, hk, rfl, rfl⟩, rfl⟩ ?_ m,
    fun x hx => read_writes_of_avoided ?_ m⟩
  · intro w hw hwk
    obtain ⟨j, hj, rfl⟩ := List.mem_map.1 hw
    have hj' := List.mem_range.1 hj
    obtain rfl := nth_inj (by omega) (by omega) hwk
    rfl
  · intro w hw hr
    obtain ⟨j, hj, rfl⟩ := List.mem_map.1 hw
    exact hx j (List.mem_range.1 hj) hr

/-- Settles O47. -/
theorem bulkWrite : Obligations.BulkWrite := by
  refine fun a len off buf s => ⟨wordsFollowFormatTables _, fun hs hm hbuf hlen hfits => ?_⟩
  have hi := exec_bcWrmemn_runs hlen hbuf hfits a
  simp only [bulkAddr_eq_nth] at hi
  obtain ⟨t, ht, hdisc, hresp, hlogs, hcyc, hleaves⟩ := exec_writes hs hm
    (f := fun k => (nth a k, buf.getD (off.toNat + k) 0)) (toNat_ne_zero hlen) hi
  obtain ⟨hin, hout⟩ := read_after_bulk (rs := s.params.ramRegions) (a := a)
    (f := fun k => buf.getD (off.toNat + k) 0) (n := len.toNat) (by omega) s.memory
  exact ⟨t, ht, hdisc, hresp, hlogs, hcyc, hleaves, by rwa [hleaves.memory], by rwa [hleaves.memory]⟩

/-- Settles O48. -/
theorem bulkFill : Obligations.BulkFill := by
  refine fun a len v s => ⟨wordsFollowFormatTables _, fun hs hm hlen => ?_⟩
  have hi := exec_bcFill_runs (s := s) hlen a v
  simp only [bulkAddr_eq_nth] at hi
  obtain ⟨t, ht, hdisc, hresp, hlogs, hcyc, hleaves⟩ := exec_writes hs hm
    (f := fun k => (nth a k, v)) (toNat_ne_zero hlen) hi
  obtain ⟨hin, hout⟩ := read_after_bulk (rs := s.params.ramRegions) (a := a) (f := fun _ => v) (n := len.toNat)
    (by omega) s.memory
  exact ⟨t, ht, hdisc, hresp, hlogs, hcyc, hleaves, by rwa [hleaves.memory], by rwa [hleaves.memory]⟩

/-! ### BC.RDMEMN -/

theorem zip_range_eq_map {n : Nat} {ds : List Byte} (h : ds.length = n) :
    (List.range n).zip ds = (List.range n).map fun k => (k, ds.getD k 0) := by
  refine List.ext_getElem (by simp [h]) fun k hk _ => ?_
  have hk' : k < ds.length := by simp [h] at hk; omega
  simp [hk']

/-- Settles O46: the bytes read are in order, and their response follows. -/
theorem bulkRead : Obligations.BulkRead := by
  refine fun a len s => ⟨wordsFollowFormatTables _, fun hs hm hlen hdraw => ?_⟩
  have hidle := State.idle_eq_self hs.inv.idlePosition hs.inv.idleDrive
  have hskip : Performs s (s.skip 1) [] := ⟨⟨rfl, (List.append_nil _).symm, (List.append_nil _).symm,
    (List.append_nil _).symm⟩, fun hoff => ⟨hoff, rfl⟩⟩
  have held := busHeld_ofCells.of_bare_eq (State.bare_skip 1 s) (hs.held hm)
  obtain ⟨ds, u, hu, heldu, hlength, hsu, hds⟩ := readBytes_performs held a (List.range len.toNat)
  rw [List.length_range] at hlength
  obtain ⟨t, ht, heldt, hut⟩ := micro_performs heldu (inert_respond (.bytes ds))
  have hst := (hskip.trans hsu).trans hut
  rw [List.nil_append, zip_range_eq_map hlength, List.flatMap_map] at hst
  have hexec : exec (.bcRdmemn a len) s = .next t.idle := by
    refine (exec_bcRdmemn_runs hlen hdraw a).trans (command_of_ok ?_)
    rw [hidle, hu, ok_bind, seq_singleton]
    exact ht
  have hcells : ((List.range len.toNat).flatMap fun k =>
      heldReadSteps s.params.timing (nth a k) (ds.getD k 0)).foldl MicroStep.apply s =
        readAt s (nth a (len.toNat - 1)) := by
    rw [← range_map_getLast (nth a) (range_map_ne_nil _ (toNat_ne_zero hlen)), ← foldl_readAt, List.foldl_map]
    exact foldl_flatMap_between (hs.between hm) (fun v k hv => foldl_heldReadSteps_eq hv _ _)
      (fun v k hv => hv.readAt _) _
  refine ⟨t.idle, ds, hexec, (busHeld_ofCells.of_bare_eq (State.bare_idle t) heldt).disciplined hs hexec, hlength,
    ?_, ?_, ?_, fun k b hk hb => hds k k b (by simp [hk]) hb, ?_⟩
  · refine hst.responses.trans ?_
    rw [List.filterMap_append, filterMap_flatMap_eq_nil (f := responseOf) fun _ => rfl]
    rfl
  · refine hst.logs.trans ?_
    rw [List.filterMap_append, filterMap_flatMap_eq_nil (f := logOf) fun _ => rfl]
    exact List.append_nil _
  · refine hst.busCycles.trans ?_
    rw [List.filter_append, filter_flatMap_eq (p := isBusCycle)
      (g := fun k => [MicroStep.sampleMem (nth a k) (ds.getD k 0)]) fun _ => rfl, ← List.map_eq_flatMap]
    exact congrArg _ (List.append_nil _)
  · have hleaves := hst.leaves (e := readAt s (nth a (len.toNat - 1))) (by
      rw [List.foldl_append]
      exact congrArg State.bare hcells)
    rwa [State.idle_eq_self (s := readAt s (nth a (len.toNat - 1))) hs.inv.idlePosition hs.inv.idleDrive] at hleaves

/-! ### BC.COPY -/

theorem toNat_sub_eq_zero_iff {src dst : Addr} : (dst - src).toNat = 0 ↔ dst = src := by
  rw [BitVec.toNat_sub, BitVec.toNat_eq]
  omega

theorem copyOrder_eq_copyIndices (src dst : Addr) (n : Nat) : copyOrder src dst n = copyIndices src dst n :=
  if_congr (and_congr toNat_sub_eq_zero_iff.not Iff.rfl) rfl rfl

theorem length_copyIndices (src dst : Addr) (n : Nat) : (copyIndices src dst n).length = n := by
  rw [← copyOrder_eq_copyIndices, length_copyOrder]

theorem inOrder_performs {ms : List MicroStep} (hms : ∀ m ∈ ms, Inert m) {s : State} (h : BusHeld s) :
    ∃ t, inOrder ms s = .ok t ∧ BusHeld t ∧ Performs s t ms := by
  induction ms generalizing s with
  | nil => exact ⟨s, rfl, h, .refl s⟩
  | cons m ms ih =>
    obtain ⟨u, hu, heldu, hsu⟩ := micro_performs h (hms m List.mem_cons_self)
    obtain ⟨t, ht, heldt, hut⟩ := ih (fun n hn => hms n (List.mem_cons_of_mem _ hn)) heldu
    refine ⟨t, ?_, heldt, hsu.trans hut⟩
    rw [inOrder, List.map_cons, seq_cons, hu, ok_bind]
    exact ht

theorem inert_of_mem_logs {ls : List LogKind} : ∀ m ∈ ls.map MicroStep.log, Inert m := fun m hm => by
  obtain ⟨l, -, rfl⟩ := List.mem_map.1 hm
  exact inert_log l

theorem zip_map_getLast {n : Nat} {ks : List Nat} {vs : List Byte} (hk : ks.length = n) (hv : vs.length = n)
    (f : Nat → Addr) (h : (ks.zip vs).map (fun kv => (f kv.1, kv.2)) ≠ []) :
    ((ks.zip vs).map fun kv => (f kv.1, kv.2)).getLast h = (f (ks.getD (n - 1) 0), vs.getD (n - 1) 0) := by
  have hn : n ≠ 0 := by
    rintro rfl
    rw [List.length_eq_zero_iff] at hk
    subst hk
    exact h rfl
  have hklt : n - 1 < ks.length := by omega
  have hvlt : n - 1 < vs.length := by omega
  rw [List.getD_eq_getElem _ _ hklt, List.getD_eq_getElem _ _ hvlt]
  simp [List.getLast_eq_getElem, hk, hv]

/-- Settles O49: the warning, and then the loop of read and write cycles. -/
theorem copyCycles : Obligations.CopyCycles := by
  refine fun src dst len s => ⟨wordsFollowFormatTables _, fun hs hm hlen => ?_⟩
  have hidle := State.idle_eq_self hs.inv.idlePosition hs.inv.idleDrive
  have hks := length_copyIndices src dst len.toNat
  have hrun := exec_bcCopy_runs (s := s) hlen src dst
  rw [copyOrder_eq_copyIndices] at hrun
  generalize copyIndices src dst len.toNat = ks at *
  obtain ⟨u, hu, heldu, hsu⟩ := inOrder_performs (inert_of_mem_logs (ls := copyWarning src dst len.toNat)) (hs.held hm)
  obtain ⟨vs, t, ht, heldt, hlength, hut, hvs⟩ := forEach_copyByte_performs heldu src dst ks
  rw [hsu.params] at hut
  have hmem : u.memory = s.memory := hsu.memory.trans (by rw [foldl_apply_of_inert inert_of_mem_logs])
  have hst := hsu.trans hut
  have hexec : exec (.bcCopy src dst len) s = .next t.idle :=
    hrun.trans (command_of_ok (by rw [hidle, hu, ok_bind, ht]))
  have hne : (ks.zip vs).map (fun kv => (nth dst kv.1, kv.2)) ≠ [] := by
    have := toNat_ne_zero hlen
    rw [Ne, ← List.length_eq_zero_iff]
    simp [hlength, hks, this]
  have hcells : ((ks.zip vs).flatMap (copySteps s.params.timing src dst)).foldl MicroStep.apply s =
      ((ks.zip vs).map fun kv => (nth dst kv.1, kv.2)).foldl wrote s := by
    rw [List.foldl_map]
    refine foldl_flatMap_between (hs.between hm) (fun v x hv => ?_) (fun v x hv => hv.wrote _) _
    rw [copySteps, List.foldl_append, foldl_heldReadSteps_eq hv, foldl_heldWriteSteps_eq (hv.readAt _)]
    rfl
  rw [foldl_wrote hne, zip_map_getLast hks (hlength.trans hks)] at hcells
  refine ⟨t.idle, vs, hexec, (busHeld_ofCells.of_bare_eq (State.bare_idle t) heldt).disciplined hs hexec,
    hlength.trans hks, ?_, ?_, ?_, fun j hj b hb hover => ?_, ?_⟩
  · refine hst.responses.trans ?_
    rw [List.filterMap_append, filterMap_flatMap_eq_nil (f := responseOf) fun _ => rfl, List.filterMap_map]
    simp [responseOf]
  · refine hst.logs.trans ?_
    rw [List.filterMap_append, filterMap_flatMap_eq_nil (f := logOf) fun _ => rfl, List.filterMap_map, List.append_nil]
    exact congrArg _ (List.filterMap_some)
  · refine hst.busCycles.trans ?_
    rw [List.filter_append, filter_flatMap_eq (p := isBusCycle)
      (g := fun x => [MicroStep.sampleMem (nth src x.1) x.2, MicroStep.memWrite (nth dst x.1) x.2]) fun _ => rfl,
      List.filter_map]
    simp [isBusCycle]
  · refine hvs j _ b (getElem?_eq_some_getD (by omega)) ((holds_congr hsu.params hmem _ b).2 hb) fun i k hi hk => ?_
    have hget := getElem?_eq_some_getD (l := ks) (j := i) (by omega)
    obtain rfl : k = ks.getD i 0 := Option.some.inj (hk.symm.trans hget)
    exact hover i hi
  · refine hidle ▸ hst.leaves (congrArg State.bare (Eq.trans ?_ hcells))
    rw [List.foldl_append, foldl_apply_of_inert inert_of_mem_logs]

theorem mem_copyIndices {src dst : Addr} {n k : Nat} : k ∈ copyIndices src dst n ↔ k < n := by
  unfold copyIndices
  split <;> simp

/-- The destination's byte `p` is the source's byte `q` where `q - p` is the distance between the ranges, modulo
2^16. -/
theorem nth_eq_nth_iff {src dst : Addr} {p q : Nat} :
    nth dst p = nth src q ↔ ((dst - src).toNat + p) % 65536 = q % 65536 := by
  simp only [nth, BitVec.toNat_eq, BitVec.toNat_ofNat, BitVec.toNat_sub]
  omega

/-- BC.COPY's direction: no byte is overwritten before it is read, unless the ranges overlap at both ends (R232,
D24). -/
theorem copyIndices_reads_first {src dst : Addr} {n : Nat} (hn : n < 65536)
    (hwrap : dst = src ∨ n ≤ (dst - src).toNat ∨ (dst - src).toNat + n ≤ 65536) {i j : Nat} (hi : i < j) (hj : j < n) :
    nth dst ((copyIndices src dst n).getD i 0) ≠ nth src ((copyIndices src dst n).getD j 0) := by
  have hdelta := (dst - src).isLt
  rw [← toNat_sub_eq_zero_iff] at hwrap
  rw [Ne, nth_eq_nth_iff]
  unfold copyIndices
  split <;> rename_i hinside <;> rw [Ne, ← toNat_sub_eq_zero_iff] at hinside
  · -- from high to low: a byte's destination lies above it, and below the next turn of the address space
    rw [List.getD_eq_getElem _ _ (by simp; omega), List.getD_eq_getElem _ _ (by simp; omega)]
    simp only [List.getElem_reverse, List.getElem_range, List.length_range]
    omega
  · -- from low to high: the destination starts at the source, or behind its end
    rw [List.getD_eq_getElem _ _ (by simp; omega), List.getD_eq_getElem _ _ (by simp; omega)]
    simp only [List.getElem_range]
    omega

/-- Settles O50: every byte is read before it is overwritten, so what is written is the source as it was. -/
theorem copyMovesTheBytes : Obligations.CopyMovesTheBytes := by
  intro src dst len b s hs hm hlen hknown hram hwrap
  have hn : len.toNat < 65536 := len.isLt
  obtain ⟨t, vs, ht, -, hlength, -, -, -, hvs, hleaves⟩ := (copyCycles src dst len s).2 hs hm hlen
  have hks := length_copyIndices src dst len.toNat
  have hfirst := fun i j => copyIndices_reads_first hn hwrap (i := i) (j := j)
  have hmem : ∀ k, k ∈ copyIndices src dst len.toNat ↔ k < len.toNat := fun k => mem_copyIndices
  generalize copyIndices src dst len.toNat = ks at *
  have hbytes : vs = ks.map b := by
    refine List.ext_getElem (by simp [hlength, hks]) fun j hj hj' => ?_
    have hjn : j < len.toNat := hlength ▸ hj
    have hjk : j < ks.length := by omega
    have hread := hvs j hjn (b ks[j]) (by
      rw [List.getD_eq_getElem _ _ hjk]
      exact hknown _ ((hmem _).1 (List.getElem_mem hjk))) fun i hi => hfirst i j hi hjn
    simpa [hj] using hread
  have hws : (ks.zip vs).map (fun kv => (nth dst kv.1, kv.2)) = ks.map fun k => (nth dst k, b k) := by
    rw [hbytes, ← List.map_prod_left_eq_zip]
    simp
  refine ⟨t, ht, fun k hk => ?_, fun x hx => ?_⟩
  · rw [hleaves.memory, hws]
    refine read_writes_of_written (hram k hk) ⟨(nth dst k, b k), List.mem_map.2 ⟨k, (hmem k).2 hk, rfl⟩, rfl⟩ ?_ _
    intro w hw hwk
    obtain ⟨j, hj, rfl⟩ := List.mem_map.1 hw
    have hjn := (hmem j).1 hj
    obtain rfl := nth_inj (by omega) (by omega) hwk
    rfl
  · rw [hleaves.memory, hws]
    refine read_writes_of_avoided (fun w hw _ => ?_) _
    obtain ⟨j, hj, rfl⟩ := List.mem_map.1 hw
    exact hx j ((hmem j).1 hj)

end Sys2Proof.Machine

/-! ## The refresh tick and its interlock (44_interrupt_refresh.md R266 to R274)

A tick is an equation in each of its three cases, and `n` of them count themselves on the trace. `Interlocks` reads a
trace the way the interlock does: what arms and masks the tick on it is what the cells say. -/

namespace Sys2Proof.Machine
open Sys2Proof.Claims

/-! ### One tick (R271) -/

/-- The state a tick leaves, in the words of R271. -/
theorem ticked_eq (s : State) : ticked s = { s with
    ab := { s.ab with latch := s.ab.latch.extractLsb' 8 8 ++ s.refreshRow.setWidth 8 }
    signals := { s.signals with ras := ⟨.output, .high⟩ }
    refreshRow := BitVec.ofNat 7 (s.refreshRow.toNat + 1)
    trace := s.trace ++ [⟨.refresh, .abLatch (s.ab.latch.extractLsb' 8 8 ++ s.refreshRow.setWidth 8)⟩,
      ⟨.refresh, .write .ras .low⟩, ⟨.refresh, .hold .tRefRas s.params.timing.tRefRas⟩,
      ⟨.refresh, .write .ras .high⟩, ⟨.refresh, .nextRow⟩] } := by
  have hrow : s.refreshRow + 1 = BitVec.ofNat 7 (s.refreshRow.toNat + 1) := by bv_omega
  rw [← withLowByte_eq_append, ← hrow]
  rfl

theorem tick_of_immutable {s : State} (hm : s.mutable = false) (hc : s.contention = false) :
    tick s = .ok (s.record .refresh (.log .errNotMutable)) :=
  (tick_immutable hm).trans (tickStep_of_safe rfl hc)

theorem tickStep_write_raises {s : State} {n : Signal} (h : (s.line n).dir = .input) (l : Level) :
    tickStep (.write n l) s = raise .writeInput s := by rw [tickStep, prevented_write_of_input h]

/-- A tick that meets RAS an input has put the row on the latch, and stops there. -/
theorem tick_of_ras_input {s : State} (hm : s.mutable = true) (hr : s.signals.ras.dir = .input)
    (hc : s.contention = false) :
    tick s = .error (.writeInput { s with
      ab := { s.ab with latch := s.ab.latch.extractLsb' 8 8 ++ s.refreshRow.setWidth 8 }
      trace := s.trace ++ [⟨.refresh, .abLatch (s.ab.latch.extractLsb' 8 8 ++ s.refreshRow.setWidth 8)⟩]
      fault := some .writeInput }) := by
  have hlatch := tickStep_of_safe (s := s) (m := .abLatch (withLowByte s.ab.latch (s.refreshRow.setWidth 8))) rfl
    ((contention_congr rfl rfl rfl rfl rfl).trans hc)
  rw [tick, if_pos hm, hlatch, ok_bind, tickStep_write_raises, ← withLowByte_eq_append]
  · rfl
  · exact hr

/-- Settles O19: Immutable, with RAS an output, and with RAS an input. -/
theorem refreshTick : Obligations.RefreshTick := fun s hc =>
  ⟨fun hm => tick_of_immutable hm hc, fun hm hr => by rw [tick_mutable hm hr hc, ticked_eq],
    fun hm hr => tick_of_ras_input hm hr hc⟩

/-! ### Ticks in a row (R272) -/

theorem increments_append (es fs : List Event) : increments (es ++ fs) = increments es + increments fs :=
  List.countP_append

theorem increments_ticked (s : State) : increments (ticked s).trace = increments s.trace + 1 :=
  increments_append s.trace _

/-- While Mutable every tick that runs reaches the increment. -/
theorem increments_runTicks {n : Nat} {s t : State} (hm : s.mutable = true) (h : runTicks n s = .ok t) :
    increments t.trace = increments s.trace + n := by
  induction n generalizing s with
  | zero => cases h; rfl
  | succ n ih =>
    obtain ⟨u, hu, h⟩ := bind_ok_iff.1 h
    obtain ⟨only, hrow, -⟩ := tick_ok hu
    rcases tick_ok_cases hu with rfl | rfl
    · exact absurd (hrow hm) (by simp)
    · rw [ih (only.mutable.trans hm) h, increments_ticked]
      omega

theorem refreshRow_runTicks {n : Nat} {s t : State} (hm : s.mutable = true) (h : runTicks n s = .ok t) :
    t.refreshRow.toNat = (s.refreshRow.toNat + n) % 128 := by
  obtain ⟨es, htrace, hrow⟩ := rowMoves_runTicks h
  have hn := increments_runTicks hm h
  rw [htrace, increments_append] at hn
  rwa [Nat.add_left_cancel hn] at hrow

/-- Settles O20: the ticks run, and the row moves by the increments on the trace, one for each. -/
theorem rowAfterTicks : Obligations.RowAfterTicks := fun n _ hm hr hc =>
  let ⟨t, ht⟩ := runTicks_succeeds n hm hr hc
  ⟨t, ht, refreshRow_runTicks hm ht, increments_runTicks hm ht⟩

/-! ### A step with nothing delivered (R270) -/

theorem step_of_noPending {s u : State} (hf : s.fault = none) (hp : s.pending = []) (hb : boundary s = .ok u) :
    step s = .next u := by
  have hu : u.pending = [] := (boundary_ok hb).pending.trans hp
  simp only [step, hf, hb, hu]

/-- Settles O8: the step is its boundary, and that is no tick where refresh is off, else as many as the draw says. -/
theorem idleStepRunsTicks : Obligations.IdleStepRunsTicks := by
  refine fun s hs hp => ⟨fun hoff => ?_, fun hon hr => ?_⟩
  · exact step_of_noPending hs.noFault hp (boundary_of_disabled (by simp [State.tickEnabled, hoff]))
  · have hm := hs.refreshMutable hon
    obtain ⟨t, ht⟩ := runTicks_succeeds (s.drawn 0) (s := s.skip 1) hm hr hs.noContention
    have hb : boundary s = .ok t := by
      rw [boundary, if_pos (by simp [State.tickEnabled, hon, hs.unmasked, hs.noFault]), ht]
    have only := boundary_ok hb
    exact ⟨t, step_of_noPending hs.noFault hp hb, only.same, only.foregroundSteps,
      refreshRow_runTicks (s := s.skip 1) hm ht⟩

/-! ### BC.REFON and BC.REFOFF (R266, R267) -/

/-- Arming and disarming make no hazard. -/
theorem contention_setRefresh {s : State} (hs : Quiet s) (b : Bool) :
    ((MicroStep.setRefresh b).apply s.idle).contention = false := (contention_congr rfl rfl rfl rfl rfl).trans hs

/-- Settles O54: each is one pick, and its checks, in order, choose the micro-step. -/
theorem refreshArming : Obligations.RefreshArming := by
  refine ⟨coded_of_layout rfl, coded_of_layout rfl, fun s hs => ⟨fun hm => ?_, fun hm hcfg => ?_, fun hm hcfg he => ?_,
    fun hm hcfg he => ?_, fun he => ?_, fun he => ?_⟩⟩
  · have hp : refonBody s.idle = (0, .log .errNotMutable) := if_pos hm
    exact exec_of_inert_pick rfl hp (inert_log _) hs
  · have hp : refonBody s.idle = (0, .log .errNoTimer) := by simp [refonBody, hm, hcfg]
    exact exec_of_inert_pick rfl hp (inert_log _) hs
  · have hp : refonBody s.idle = redundantStep s.idle := by simp [refonBody, hm, hcfg, he]
    exact exec_of_redundant rfl hp hs
  · have hp : refonBody s.idle = (0, .setRefresh true) := by simp [refonBody, hm, hcfg, he]
    exact exec_of_pick rfl hp rfl (contention_setRefresh hs true)
  · have hp : refoffBody s.idle = redundantStep s.idle := by simp [refoffBody, he]
    exact exec_of_redundant rfl hp hs
  · have hp : refoffBody s.idle = (0, .setRefresh false) := if_pos he
    exact exec_of_pick rfl hp rfl (contention_setRefresh hs false)

/-! ### The interlock (R270, R274, 43_bus_cycles.md R225) -/

/-- Whether refresh is armed, and whether the mask is set, after an entry of the trace. -/
def flagsAfter (f : Bool × Bool) : Event → Bool × Bool
  | ⟨.refresh, _⟩ => f
  | ⟨_, .setRefresh b⟩ => (b, f.2)
  | ⟨_, .setMasked b⟩ => (f.1, b)
  | _ => f

theorem interlocked_cons (f : Bool × Bool) (e : Event) (es : List Event) :
    interlocked f.1 f.2 (e :: es) =
      ((e.agent != .refresh || f.1 && !f.2) && interlocked (flagsAfter f e).1 (flagsAfter f e).2 es) := by
  obtain ⟨a, m⟩ := e
  cases a with
  | refresh => simp [interlocked, flagsAfter]
  | foreground | environment => cases m <;> simp [interlocked, flagsAfter]

theorem interlocked_append (f : Bool × Bool) (es fs : List Event) :
    interlocked f.1 f.2 (es ++ fs) =
      (interlocked f.1 f.2 es && interlocked (es.foldl flagsAfter f).1 (es.foldl flagsAfter f).2 fs) := by
  induction es generalizing f with
  | nil => simp [interlocked]
  | cons e es ih => rw [List.cons_append, interlocked_cons, interlocked_cons, ih, List.foldl_cons, Bool.and_assoc]

/-- Entries of the tick alone: they move no flag, and fall where the tick may step. -/
theorem flagsAfter_ticks {es : List Event} (h : ∀ e ∈ es, e.agent = .refresh) (f : Bool × Bool) :
    es.foldl flagsAfter f = f := by
  induction es with
  | nil => rfl
  | cons e es ih =>
    obtain ⟨a, m⟩ := e
    obtain rfl : a = .refresh := h _ List.mem_cons_self
    exact ih fun e he => h e (List.mem_cons_of_mem _ he)

theorem interlocked_ticks {es : List Event} (h : ∀ e ∈ es, e.agent = .refresh) : interlocked true false es = true := by
  induction es with
  | nil => rfl
  | cons e es ih =>
    obtain ⟨a, m⟩ := e
    obtain rfl : a = .refresh := h _ List.mem_cons_self
    exact ih fun e he => h e (List.mem_cons_of_mem _ he)

/-- What the interlock reads of a state: whether refresh is armed, and whether the mask is set. -/
def State.flags (s : State) : Bool × Bool := (s.refreshEnabled, s.masked)

/-- From `s` to `t` the trace grew by entries that keep the interlock, and they say what became of its flags. -/
def Interlocks (s t : State) : Prop :=
  ∃ es, t.trace = s.trace ++ es ∧ interlocked s.flags.1 s.flags.2 es = true ∧ es.foldl flagsAfter s.flags = t.flags

theorem Interlocks.refl (s : State) : Interlocks s s := ⟨[], (List.append_nil _).symm, rfl, rfl⟩

theorem Interlocks.trans {s t u : State} (h : Interlocks s t) (g : Interlocks t u) : Interlocks s u := by
  obtain ⟨es, htrace, hlock, hflags⟩ := h
  obtain ⟨fs, gtrace, glock, gflags⟩ := g
  refine ⟨es ++ fs, by rw [gtrace, htrace, List.append_assoc], ?_, by rw [List.foldl_append, hflags, gflags]⟩
  rw [interlocked_append, hlock, hflags, glock]
  rfl

/-- One entry that is not the tick's. -/
theorem Interlocks.entry {s t : State} (e : Event) (he : e.agent ≠ .refresh) (ht : t.trace = s.trace ++ [e])
    (hf : flagsAfter s.flags e = t.flags) : Interlocks s t := by
  refine ⟨[e], ht, ?_, hf⟩
  rw [interlocked_cons]
  simp [he, interlocked]

/-- Ticks, where they may step. -/
theorem TicksOnly.interlocks {s t : State} (h : TicksOnly s t) (he : s.tickEnabled = true) : Interlocks s t := by
  obtain ⟨es, htrace, hagent⟩ := h.events
  obtain ⟨⟨hon, hmask⟩, -⟩ : (s.refreshEnabled = true ∧ s.masked = false) ∧ s.fault = none := by
    simpa [State.tickEnabled] using he
  have hflags : s.flags = (true, false) := Prod.ext hon hmask
  refine ⟨es, htrace, ?_, ?_⟩
  · rw [hflags]
    exact interlocked_ticks hagent
  · rw [flagsAfter_ticks hagent]
    exact Prod.ext h.refreshEnabled.symm h.masked.symm

theorem interlocks_boundary {s t : State} (h : boundary s = .ok t) : Interlocks s t := by
  cases he : s.tickEnabled with
  | true => exact (boundary_ok h).interlocks he
  | false =>
    obtain rfl : s = t := Except.ok.inj ((boundary_of_disabled he).symm.trans h)
    exact .refl s

theorem interlocks_gap {s t : State} (h : gap s = .ok t) : Interlocks s t := by
  unfold gap at h
  split at h
  · cases h; exact .refl s
  · exact interlocks_boundary h

/-- The foreground agent's micro-steps write the flags as their entries say. -/
theorem flagsAfter_foreground (m : MicroStep) (s : State) : flagsAfter s.flags ⟨.foreground, m⟩ = (m.apply s).flags := by
  cases m <;> rfl

theorem Move.interlocks {s t : State} (h : Move s t) : Interlocks s t := by
  cases h with
  | gap h => exact interlocks_gap h
  | act k ack m => exact .entry ⟨.foreground, m⟩ (by simp) (by simp) (flagsAfter_foreground m s)
  | draw k => exact .refl s
  | memTaken => exact .entry _ (by simp) rfl rfl
  | ioTaken => exact .entry _ (by simp) rfl rfl

theorem exec_interlocks {i : Instr} {s t : State} (h : exec i s = .next t) : Interlocks s t := by
  have hruns := exec_runs i s
  rw [h] at hruns
  obtain ⟨u, hu, rfl⟩ := hruns
  exact hu.keeps (P := Interlocks s.idle) (fun _ _ hs hmove => hs.trans hmove.interlocks) (.refl _)

theorem step_interlocks {s t : State} (h : step s = .next t) : Interlocks s t := by
  obtain ⟨u, hb, rfl | ⟨d, i, hi⟩⟩ := step_next_cases h
  · exact interlocks_boundary hb
  · exact (interlocks_boundary hb).trans (exec_interlocks (s := u.accept d) hi)

/-- Settles O16: every move of a step keeps the interlock, and the mask is clear in a state with the invariant. -/
theorem refreshIsInterlocked : Obligations.RefreshIsInterlocked := by
  intro s t hs h
  obtain ⟨es, htrace, hlock, -⟩ := step_interlocks h
  have hflags : s.flags = (s.refreshEnabled, false) := Prod.ext rfl hs.unmasked
  rw [hflags] at hlock
  exact ⟨es, htrace, hlock, (stepKeepsInv s t hs h).unmasked⟩

end Sys2Proof.Machine

/-! ## The interrupt handshake (44_interrupt_refresh.md R260 to R262)

BC.INT runs also while Immutable, and drives the data bus there, which the safety predicate exempts from the switch to
output to the switch back (60_exceptions.md R334 (c)). `Shaking` is the reason that nothing faults on the way. -/

namespace Sys2Proof.Machine
open Sys2Proof.Claims

/-! ### Why nothing faults -/

theorem drawnLevel_performed (k : Nat) (ack : Bool) (m : MicroStep) (s : State) (j : Nat) :
    (s.performed k ack m).drawnLevel j = s.drawnLevel (j + k) := by
  simp [State.drawnLevel, State.drawn, Nat.add_comm j k, Nat.add_assoc]

/-- A state inside BC.INT. No read strobe is asserted; without the bus BMC drives no address or shared-control line, nor
the data bus, but where the last micro-step was exempt (`exempt`); a tick can run wherever it is enabled. -/
structure Shaking (exempt : Bool) (s : State) : Prop where
  rd : s.asserted .rd = false
  ioIn : s.asserted .ioIn = false
  unshared : s.busGranted = false → s.ab.mask = 0 ∧ s.sharedOut = false
  undriven : exempt = false → s.busGranted = false → s.db.mask = 0
  drive : exempt = true → s.intAckDrive = true
  intAckIn : s.signals.intAck.dir = .input
  ready : TickReady s
  armedMutable : s.refreshEnabled = true → s.mutable = true

/-- Whether BC.INT may perform `m`, exempt (`ack`) or not, after a micro-step that was (`was`) or was not: only the
switch to output needs the exemption, and only the switch back gives it up. -/
def handshakes (was ack : Bool) : MicroStep → Bool
  | .driveOut n _ | .setDir n _ => n == .int && (ack || !was)
  | .dbSetWritable => ack
  | .dbSetReadable => true
  | .dbLatch _ | .redundant _ | .hold _ _ | .sampleLine _ _ | .log _ | .respond _ => ack || !was
  | _ => false

theorem Inv.shaking {s : State} (h : Inv s) (hrd : s.asserted .rd = false) (hin : s.asserted .ioIn = false)
    (ht : TickReady s) : Shaking false s := by
  obtain ⟨hgrant, -⟩ := (contention_eq_false_iff h.idleDrive).1 h.noContention
  exact
    { rd := hrd
      ioIn := hin
      unshared := fun hg => by
        obtain ⟨hab, hshared, -⟩ := hgrant hg
        exact ⟨hab, hshared⟩
      undriven := fun _ hg => by
        obtain ⟨-, -, hdb⟩ := hgrant hg
        exact hdb
      drive := fun he => absurd he Bool.false_ne_true
      intAckIn := h.inputOnlyIn.2
      ready := ht
      armedMutable := h.refreshMutable }

section
variable {was ack : Bool} {s : State} (h : Shaking was s)
include h

theorem Shaking.contention : s.contention = false := by
  cases hg : s.busGranted with
  | true => exact no_contention_of_no_read hg h.rd h.ioIn
  | false =>
    obtain ⟨hab, hshared⟩ := h.unshared hg
    have hdb : s.db.mask = 0 ∨ s.intAckDrive = true := by
      cases was with
      | true => exact .inr (h.drive rfl)
      | false => exact .inl (h.undriven rfl hg)
    simpa [State.contention, hg, hab, hshared, h.rd, h.ioIn, Classical.or_iff_not_imp_left] using hdb

theorem Shaking.ticks {t : State} (g : TicksOnly s t) : Shaking was t where
  rd := (g.asserted_eq (by decide)).trans h.rd
  ioIn := (g.asserted_eq (by decide)).trans h.ioIn
  unshared hg := by rw [g.abMask, g.sharedOut]; exact h.unshared (g.busGranted.symm.trans hg)
  undriven hw hg := by rw [g.db]; exact h.undriven hw (g.busGranted.symm.trans hg)
  drive hw := g.intAckDrive.trans (h.drive hw)
  intAckIn := (g.line_dir .intAck).trans h.intAckIn
  ready he := (g.line_dir .ras).trans (h.ready (g.refreshEnabled.symm.trans he))
  armedMutable he := g.mutable.trans (h.armedMutable (g.refreshEnabled.symm.trans he))

theorem Shaking.gap : ∃ t, gap s = .ok t := gap_succeeds_of_tickReady h.contention h.ready

/-- A write of INT's cell. -/
theorem Shaking.performed_of_setLine {m : MicroStep} {l : Line} (hm : m.apply s = s.setLine .int l)
    (hack : (ack || !was) = true) (k : Nat) : Shaking ack (s.performed k ack m) where
  rd := by
    show ((m.apply s).asserted .rd) = false
    rw [hm, State.asserted_setLine_other l s (by decide), h.rd]
  ioIn := by
    show ((m.apply s).asserted .ioIn) = false
    rw [hm, State.asserted_setLine_other l s (by decide), h.ioIn]
  unshared hg := by
    rw [State.performed_busGranted, hm] at hg
    obtain ⟨hab, hshared⟩ := h.unshared hg
    rw [State.performed_ab, hm]
    exact ⟨hab, (congrArg State.sharedOut hm).trans ((sharedOut_setLine (by decide) l s).trans hshared)⟩
  undriven hw hg := by
    rw [State.performed_busGranted, hm] at hg
    rw [State.performed_db, hm]
    exact h.undriven (by simpa [hw] using hack) hg
  drive hw := hw
  intAckIn := by rw [State.performed_signals, hm]; exact h.intAckIn
  ready he := by
    rw [State.performed_refreshEnabled, hm] at he
    rw [State.performed_signals, hm]
    exact h.ready he
  armedMutable he := by
    rw [State.performed_refreshEnabled, hm] at he
    rw [State.performed_mutable, hm]
    exact h.armedMutable he

/-- A micro-step that writes no signal cell. -/
theorem Shaking.performed_of_signals {m : MicroStep} (hsig : (m.apply s).signals = s.signals)
    (hab : (m.apply s).ab = s.ab) (hg : (m.apply s).busGranted = s.busGranted)
    (hr : (m.apply s).refreshEnabled = s.refreshEnabled) (hmut : (m.apply s).mutable = s.mutable)
    (hdb : ack = false → s.busGranted = false → (m.apply s).db.mask = 0) (k : Nat) :
    Shaking ack (s.performed k ack m) where
  rd := by simp only [State.asserted, State.line, State.performed_signals, hsig]; exact h.rd
  ioIn := by simp only [State.asserted, State.line, State.performed_signals, hsig]; exact h.ioIn
  unshared hu := by
    simp only [State.sharedOut, State.line, State.performed_signals, State.performed_ab, hsig, hab]
    exact h.unshared (hg.symm.trans hu)
  undriven hw hu := hdb hw (hg.symm.trans hu)
  drive hw := hw
  intAckIn := (congrArg (fun g : Signals => g.intAck.dir) hsig).trans h.intAckIn
  ready he := (congrArg (fun g : Signals => g.ras.dir) hsig).trans (h.ready (hr.symm.trans he))
  armedMutable he := hmut.trans (h.armedMutable (hr.symm.trans he))

theorem Shaking.performed {m : MicroStep} (hm : handshakes was ack m = true) (k : Nat) :
    Shaking ack (s.performed k ack m) := by
  cases m with
  | driveOut n l | setDir n l =>
    obtain ⟨hn, hw⟩ := Bool.and_eq_true_iff.1 hm
    obtain rfl : n = .int := by simpa using hn
    exact h.performed_of_setLine rfl hw k
  | dbSetWritable =>
    obtain rfl : ack = true := hm
    exact h.performed_of_signals rfl rfl rfl rfl rfl (by simp) k
  | dbSetReadable => exact h.performed_of_signals rfl rfl rfl rfl rfl (fun _ _ => rfl) k
  | dbLatch | redundant | hold | sampleLine | log | respond =>
    have hdb (hw : ack = false) : s.busGranted = false → s.db.mask = 0 :=
      h.undriven (by simpa [handshakes, hw] using hm)
    exact h.performed_of_signals rfl rfl rfl rfl rfl hdb k
  | _ => cases hm

theorem Shaking.perform {m : MicroStep} (hm : handshakes was ack m = true) (k : Nat) :
    perform k ack m s = .ok (s.performed k ack m) := by
  refine perform_of_safe ?_ (h.performed hm k).contention
  cases m with
  | setDir n d =>
    obtain ⟨hn, -⟩ := Bool.and_eq_true_iff.1 hm
    obtain rfl : n = .int := by simpa using hn
    simp [MicroStep.prevented, inputOnly]
  | write => cases hm
  | _ => rfl

/-! ### A micro-step of the handshake, with the ticks before it -/

/-- What a micro-step of BC.INT comes to, after a boundary that left `v`. -/
theorem Shaking.performs {v : State} (hv : Machine.gap s = .ok v) {m : MicroStep} (hm : handshakes was ack m = true)
    (k : Nat) : Shaking ack (v.performed k ack m) ∧ Performs s (v.performed k ack m) [m] := by
  have hne : m ≠ .setRefresh true := by rintro rfl; cases hm
  exact ⟨(h.ticks (gap_ok hv)).performed hm k, (performs_gap h.armedMutable hv).trans (performs_performed hne k ack v)⟩

theorem Shaking.micro_of_gap {v : State} (hv : Machine.gap s = .ok v) {p : Pick} {m : MicroStep} (hp : (p v).2 = m)
    (hm : handshakes was ack m = true) : micro ack p s = .ok (v.performed (p v).1 ack m) := by
  rw [Machine.micro_of_gap hv, hp]
  exact (h.ticks (gap_ok hv)).perform hm _

/-- A micro-step that the data bus and the parameters decide, and that takes no draw. -/
theorem Shaking.micro {p : Pick} {m : MicroStep}
    (hp : ∀ v : State, v.db = s.db → v.params = s.params → p v = (0, m)) (hm : handshakes was ack m = true) :
    ∃ t, micro ack p s = .ok t ∧ Shaking ack t ∧ Performs s t [m] ∧
      (s.refreshEnabled = false → ∀ j, t.drawnLevel j = s.drawnLevel j) := by
  obtain ⟨v, hv⟩ := h.gap
  have only := gap_ok hv
  have hpick := hp v only.db only.params
  obtain ⟨hnext, hperf⟩ := h.performs hv hm 0
  refine ⟨v.performed 0 ack m, ?_, hnext, hperf, fun hoff => ?_⟩
  · have hmicro := h.micro_of_gap hv (congrArg Prod.snd hpick) hm
    rwa [hpick] at hmicro
  · obtain rfl : s = v := Except.ok.inj ((gap_of_disarmed hoff).symm.trans hv)
    exact drawnLevel_performed 0 ack m s

end

/-! ### The polls (R260) -/

/-- The draws from `s` on, of which the last shows INT_ACK low, and the `k` before it do not. -/
def FirstLow (s : State) (k : Nat) : Prop := (∀ j, j < k → s.drawnLevel j = .high) ∧ s.drawnLevel k = .low

/-- None of the next `n` draws shows INT_ACK low. -/
def AllHigh (s : State) (n : Nat) : Prop := ∀ j, j < n → s.drawnLevel j = .high

theorem FirstLow.succ {s t : State} (hs : s.drawnLevel 0 = .high) (ht : ∀ j, t.drawnLevel j = s.drawnLevel (j + 1))
    {k : Nat} (h : FirstLow t k) : FirstLow s (k + 1) := by
  obtain ⟨hhigh, hlow⟩ := h
  refine ⟨fun j hj => ?_, (ht k).symm.trans hlow⟩
  cases j with
  | zero => exact hs
  | succ j => exact (ht j).symm.trans (hhigh j (by omega))

theorem AllHigh.succ {s t : State} (hs : s.drawnLevel 0 = .high) (ht : ∀ j, t.drawnLevel j = s.drawnLevel (j + 1))
    {n : Nat} (h : AllHigh t n) : AllHigh s (n + 1) := by
  intro j hj
  cases j with
  | zero => exact hs
  | succ j => exact (ht j).symm.trans (h j (by omega))

/-- One sample of INT_ACK: with refresh off it is the next draw. -/
theorem Shaking.sample {s : State} (h : Shaking false s) :
    ∃ l t, readStep 1 (.sampleLine .intAck) (fun s => s.lineLevel .intAck 0) s = .ok (l, t) ∧ Shaking false t ∧
      Performs s t [.sampleLine .intAck l] ∧
      (s.refreshEnabled = false → l = s.drawnLevel 0 ∧ ∀ j, t.drawnLevel j = s.drawnLevel (j + 1)) := by
  obtain ⟨v, hv⟩ := h.gap
  have hshake := h.ticks (gap_ok hv)
  have hlevel : v.lineLevel .intAck 0 = v.drawnLevel 0 := by
    simp [State.lineLevel, State.line, Signals.get, hshake.intAckIn]
  obtain ⟨hnext, hperf⟩ := h.performs hv (ack := false) (m := .sampleLine .intAck (v.lineLevel .intAck 0)) rfl 1
  refine ⟨_, _, ?_, hnext, hperf, fun hoff => ?_⟩
  · rw [readStep_of_gap hv, hshake.perform rfl]
    rfl
  · obtain rfl : s = v := Except.ok.inj ((gap_of_disarmed hoff).symm.trans hv)
    exact ⟨hlevel, drawnLevel_performed 1 false _ s⟩

/-- How the polling of INT_ACK can end: acknowledged after `k` polls that find it high, with refresh off at the first
draw that is low; or not at all. -/
theorem Shaking.polls (n : Nat) {s : State} (h : Shaking false s) :
    (∃ k t, k < n ∧ pollIntAck n s = .ok (true, t) ∧ Shaking false t ∧
      Performs s t (polls s.params.timing k ++ [.sampleLine .intAck .low]) ∧
      (s.refreshEnabled = false → FirstLow s k)) ∨
    (∃ t, pollIntAck n s = .ok (false, t) ∧ Shaking false t ∧ Performs s t (polls s.params.timing n) ∧
      (s.refreshEnabled = false → AllHigh s n)) := by
  induction n generalizing s with
  | zero => exact .inr ⟨s, rfl, h, .refl s, fun _ j hj => absurd hj (Nat.not_lt_zero j)⟩
  | succ n ih =>
    obtain ⟨l, u, hsample, hu, hperf, hdraws⟩ := h.sample
    cases l with
    | low =>
      refine .inl ⟨0, u, Nat.succ_pos n, ?_, hu, hperf, fun hoff => ⟨fun j hj => absurd hj (Nat.not_lt_zero j), ?_⟩⟩
      · rw [pollIntAck, hsample]
        rfl
      · exact (hdraws hoff).1.symm
    | high =>
      obtain ⟨v, hhold, hv, hperf', hdraws'⟩ := hu.micro (ack := false) (p := hold .tPoll)
        (m := .hold .tPoll u.params.timing.tPoll) (fun w _ hpar => by rw [← hpar]; rfl) rfl
      rw [hperf.params] at hperf'
      have hround := hperf.trans hperf'
      have hpoll : pollIntAck (n + 1) s = pollIntAck n v := by
        rw [pollIntAck, hsample, ok_bind]
        show (Machine.micro false (hold .tPoll) u >>= pollIntAck n) = _
        rw [hhold, ok_bind]
      have hlater (hoff : s.refreshEnabled = false) :
          v.refreshEnabled = false ∧ s.drawnLevel 0 = .high ∧ ∀ j, v.drawnLevel j = s.drawnLevel (j + 1) := by
        obtain ⟨hhigh, hnext⟩ := hdraws hoff
        exact ⟨(hround.still hoff).1, hhigh.symm, fun j => (hdraws' (hperf.still hoff).1 j).trans (hnext j)⟩
      have hih := ih hv
      rw [hround.params] at hih
      rcases hih with ⟨k, t, hk, hend, ht, hrest, hlow⟩ | ⟨t, hend, ht, hrest, hhigh⟩
      · refine .inl ⟨k + 1, t, Nat.succ_lt_succ hk, hpoll.trans hend, ht, hround.trans hrest, fun hoff => ?_⟩
        obtain ⟨hvoff, hfirst, hnext⟩ := hlater hoff
        exact (hlow hvoff).succ hfirst hnext
      · refine .inr ⟨t, hpoll.trans hend, ht, hround.trans hrest, fun hoff => ?_⟩
        obtain ⟨hvoff, hfirst, hnext⟩ := hlater hoff
        exact (hhigh hvoff).succ hfirst hnext

/-! ### After the polls -/

/-- BC.INT once INT_ACK was low: the code on the data bus, INT released, the bus given back (R260). -/
def acknowledge (code : Byte) (s : State) : Except Fault State := do
  let s ← micro true dbSetwBody s
  let s ← micro true (dbWrBody code) s
  let s ← micro true (hold .tIntData) s
  let s ← micro true (deassertLine .int) s
  seq [dbSetrBody, respond (.bool true)] s

/-- BC.INT once it polled `TMO` times in vain (R260). -/
def giveUp : State → Except Fault State := seq [deassertLine .int, logStep .errIntTimeout, respond (.bool false)]

/-- BC.INT where it is not gated out. -/
theorem exec_bcInt_of_ungated {s : State} (hg : s.gatedOut = false) (code : Byte) (tmo : BitVec 16) :
    exec (.bcInt code tmo) s = command (fun u => do
      let u ← seq [assertLine .int] u
      let (acked, u) ← pollIntAck tmo.toNat u
      if acked then acknowledge code u else giveUp u) s := by
  have hg' : s.idle.gatedOut = false := hg
  unfold exec execBcInt
  exact command_congr (by simp only [hg', Bool.false_eq_true, if_false]; rfl)

/-- The switch leaves the data bus writable, redundant or not (R171). -/
theorem writable_setwStep (s : State) (b : Bool) : ((setwStep s b).apply s).db.writable = true := by
  cases hw : s.db.writable <;> simp [setwStep, hw, MicroStep.apply]

theorem handshakes_setwStep (s : State) (b : Bool) : handshakes false true (setwStep s b) = true := by
  unfold setwStep
  split <;> rfl

theorem Does.db {s t : State} {ms : List MicroStep} (h : Does s t ms) : t.db = (ms.foldl MicroStep.apply s).db := by
  have e := congrArg State.db h.cells; exact e

section
variable {s : State} (h : Shaking false s)
include h

/-- The optional warning of the switch to output is the boundary's word (log entry 16). -/
theorem Shaking.switch :
    ∃ b t, Machine.micro true dbSetwBody s = .ok t ∧ Shaking true t ∧ Performs s t [setwStep s b] := by
  obtain ⟨v, hv⟩ := h.gap
  have hp : (dbSetwBody v).2 = setwStep s (v.drawnBool 0) := by rw [dbSetwBody_eq (gap_ok hv).db]
  exact ⟨v.drawnBool 0, _, h.micro_of_gap hv hp (handshakes_setwStep s _), h.performs hv (handshakes_setwStep s _) _⟩

theorem acknowledge_performs (code : Byte) :
    ∃ b t, acknowledge code s = .ok t ∧ Performs s t
      [setwStep s b, .dbLatch code, .hold .tIntData s.params.timing.tIntData, .setDir .int .input, .dbSetReadable,
        .respond (.bool true)] := by
  obtain ⟨b, t₁, h₁, k₁, p₁⟩ := h.switch
  have hw₁ : t₁.db.writable = true := by rw [p₁.db]; exact writable_setwStep s b
  obtain ⟨t₂, h₂, k₂, p₂, -⟩ := k₁.micro (ack := true) (p := dbWrBody code) (m := .dbLatch code)
    (fun v hdb _ => by rw [dbWrBody_of_writable (by rw [hdb, hw₁])]) rfl
  have q₂ := p₁.trans p₂
  obtain ⟨t₃, h₃, k₃, p₃, -⟩ := k₂.micro (ack := true) (p := hold .tIntData)
    (m := .hold .tIntData s.params.timing.tIntData) (fun v _ hpar => by rw [← q₂.params, ← hpar]; rfl) rfl
  have q₃ := q₂.trans p₃
  obtain ⟨t₄, h₄, k₄, p₄, -⟩ := k₃.micro (ack := true) (p := deassertLine .int) (m := .setDir .int .input)
    (fun _ _ _ => rfl) rfl
  have q₄ := q₃.trans p₄
  have hw₄ : t₄.db.writable = true := by rw [q₄.db]; exact writable_setwStep s b
  obtain ⟨t₅, h₅, k₅, p₅, -⟩ := k₄.micro (ack := false) (p := dbSetrBody) (m := .dbSetReadable)
    (fun v hdb _ => by rw [dbSetrBody_of_writable (by rw [hdb, hw₄])]) rfl
  obtain ⟨t₆, h₆, -, p₆, -⟩ := k₅.micro (ack := false) (p := respond (.bool true)) (m := .respond (.bool true))
    (fun _ _ _ => rfl) rfl
  refine ⟨b, t₆, ?_, (q₄.trans p₅).trans p₆⟩
  rw [acknowledge, h₁, ok_bind, h₂, ok_bind, h₃, ok_bind, h₄, ok_bind, seq_cons, h₅, ok_bind, seq_singleton, h₆]

theorem giveUp_performs :
    ∃ t, giveUp s = .ok t ∧
      Performs s t [.setDir .int .input, .log .errIntTimeout, .respond (.bool false)] := by
  obtain ⟨t₁, h₁, k₁, p₁, -⟩ := h.micro (ack := false) (p := deassertLine .int) (m := .setDir .int .input)
    (fun _ _ _ => rfl) rfl
  obtain ⟨t₂, h₂, k₂, p₂, -⟩ := k₁.micro (ack := false) (p := logStep .errIntTimeout) (m := .log .errIntTimeout)
    (fun _ _ _ => rfl) rfl
  obtain ⟨t₃, h₃, -, p₃, -⟩ := k₂.micro (ack := false) (p := respond (.bool false)) (m := .respond (.bool false))
    (fun _ _ _ => rfl) rfl
  refine ⟨t₃, ?_, (p₁.trans p₂).trans p₃⟩
  rw [giveUp, seq_cons, h₁, ok_bind, seq_cons, h₂, ok_bind, seq_singleton, h₃]

end

/-! ### The whole command -/

theorem inert_of_mem_polls {T : Timing} {k : Nat} : ∀ m ∈ polls T k, Inert m := by
  intro m hm
  obtain ⟨l, hl, hm⟩ := List.mem_flatten.1 hm
  obtain rfl := List.eq_of_mem_replicate hl
  rcases List.mem_pair.1 hm with rfl | rfl <;> exact fun _ => ⟨rfl, rfl⟩

/-- INT is driven low, and the polls change no cell. -/
theorem foldl_requestSteps (T : Timing) (k : Nat) (ms : List MicroStep) (s : State) :
    (.driveOut .int .low :: (polls T k ++ ms)).foldl MicroStep.apply s =
      ms.foldl MicroStep.apply (s.setLine .int ⟨.output, .low⟩) := by
  rw [List.foldl_cons, List.foldl_append, foldl_apply_of_inert inert_of_mem_polls]
  rfl

/-- The cells BC.INT leaves when it is acknowledged: the code stays on the data latch. -/
theorem foldl_ackedSteps (s : State) (code : Byte) (k : Nat) (b : Bool) :
    ((ackedSteps s code k b).foldl MicroStep.apply s).bare = { s with
      signals := { s.signals with int := ⟨.input, .low⟩ }
      db := { latch := code, mask := 0, writable := false } : State }.bare := by
  rw [ackedSteps, foldl_requestSteps, ackedSteps.ackSteps, setwStep]
  split <;> rfl

/-- The cells BC.INT leaves when it times out: INT is released. -/
theorem foldl_timeoutSteps (s : State) (n : Nat) :
    ((timeoutSteps s n).foldl MicroStep.apply s).bare =
      { s with signals := { s.signals with int := ⟨.input, .low⟩ } : State }.bare := by
  rw [timeoutSteps, foldl_requestSteps]
  rfl

/-- BC.INT where it is not gated out, on either way, with what the draws say of which way it is. -/
theorem exec_bcInt_performs {s : State} (hs : Inv s) (hg : s.gatedOut = false) (h : Shaking false s) (code : Byte)
    (tmo : BitVec 16) :
    ∃ t, exec (.bcInt code tmo) s = .next t.idle ∧
      ((∃ k b, k < tmo.toNat ∧ Performs s t (ackedSteps s code k b) ∧ (s.refreshEnabled = false → FirstLow s k)) ∨
       (Performs s t (timeoutSteps s tmo.toNat) ∧ (s.refreshEnabled = false → AllHigh s tmo.toNat))) := by
  obtain ⟨u, hu, ku, pu, hdraws⟩ := h.micro (ack := false) (p := assertLine .int) (m := .driveOut .int .low)
    (fun _ _ _ => rfl) rfl
  have hlevels (hoff : s.refreshEnabled = false) : u.refreshEnabled = false ∧ ∀ j, u.drawnLevel j = s.drawnLevel j :=
    ⟨(pu.still hoff).1, hdraws hoff⟩
  have hexec {acked : Bool} {v t : State} (hv : pollIntAck tmo.toNat u = .ok (acked, v))
      (ht : (if acked then acknowledge code v else giveUp v) = .ok t) : exec (.bcInt code tmo) s = .next t.idle := by
    rw [exec_bcInt_of_ungated hg]
    refine command_of_ok ?_
    rw [State.idle_eq_self hs.idlePosition hs.idleDrive, seq_singleton, hu, ok_bind, hv]
    exact ht
  have hpolls := ku.polls tmo.toNat
  rw [pu.params] at hpolls
  rcases hpolls with ⟨k, v, hk, hv, kv, pv, hlow⟩ | ⟨v, hv, kv, pv, hhigh⟩
  · obtain ⟨b, t, ht, pt⟩ := acknowledge_performs kv code
    have puv := pu.trans pv
    have hdb : v.db = s.db := puv.db.trans
      ((congrArg State.db (foldl_requestSteps s.params.timing k [.sampleLine .intAck .low] s)).trans rfl)
    have hsetw : setwStep v b = setwStep s b := by rw [setwStep, setwStep, hdb]
    have hall := puv.trans pt
    rw [hsetw, puv.params] at hall
    refine ⟨t, hexec hv ht, .inl ⟨k, b, hk, ?_, fun hoff => ?_⟩⟩
    · simpa [ackedSteps, ackedSteps.ackSteps] using hall
    · obtain ⟨huoff, hsame⟩ := hlevels hoff
      simpa only [FirstLow, hsame] using hlow huoff
  · obtain ⟨t, ht, pt⟩ := giveUp_performs kv
    refine ⟨t, hexec hv ht, .inr ⟨(pu.trans pv).trans pt, fun hoff => ?_⟩⟩
    obtain ⟨huoff, hsame⟩ := hlevels hoff
    simpa only [AllHigh, hsame] using hhigh huoff

/-- BC.INT while it is gated out: refresh is off while Immutable, so no tick falls between its two micro-steps. -/
theorem exec_bcInt_of_gatedOut {s : State} (hs : Inv s) (hg : s.gatedOut = true) (code : Byte) (tmo : BitVec 16) :
    exec (.bcInt code tmo) s = .next (logged 0 [.log .errNotMutable, .respond (.bool false)] s) := by
  have hg' : s.idle.gatedOut = true := hg
  obtain ⟨-, hm⟩ := gatedOut_iff.1 hg
  have hoff : s.refreshEnabled = false := Bool.eq_false_iff.2 fun he => by simp [hs.refreshMutable he] at hm
  have hinert : ∀ m ∈ [MicroStep.log .errNotMutable, .respond (.bool false)], Inert m := by
    simp [inert_log, inert_respond]
  have hrun := command_of_inert (k := 0) (s := s) rfl hinert ⟨hoff, quiet_of_noAckDrive hs.idleDrive hs.noContention⟩
  rw [State.idle_eq_self hs.idlePosition hs.idleDrive] at hrun
  rw [← hrun]
  unfold exec execBcInt
  exact command_congr (by simp only [hg', if_true]; rfl)

theorem gatedOut_eq_false {s : State} (h : s.params.gateIntWait = true → s.mutable = true) : s.gatedOut = false := by
  refine Bool.eq_false_iff.2 fun hg => ?_
  obtain ⟨hgate, hm⟩ := gatedOut_iff.1 hg
  simp [h hgate] at hm

/-- Settles O52: the gate, and then the two ways the polling can end. -/
theorem interruptHandshake : Obligations.InterruptHandshake := by
  refine fun code tmo s => ⟨coded_of_layout rfl,
    fun hs hgate hm => exec_bcInt_of_gatedOut hs (gatedOut_iff.2 ⟨hgate, hm⟩) code tmo, fun hs hgate hrd hin ht => ?_⟩
  have hleaves {t e : State} {ms : List MicroStep} (h : Performs s t ms)
      (he : (ms.foldl MicroStep.apply s).bare = e.bare) (hp : e.position = 0) (hi : e.intAckDrive = false) :
      Leaves s e t.idle := by
    rw [← State.idle_eq_self hp hi]
    exact h.leaves he
  obtain ⟨t, hexec, hways⟩ := exec_bcInt_performs hs (gatedOut_eq_false hgate) (hs.shaking hrd hin ht) code tmo
  refine ⟨t.idle, hexec, ?_⟩
  rcases hways with ⟨k, b, hk, hperf, -⟩ | ⟨hperf, -⟩
  · exact .inl ⟨k, b, hk, hperf.foregroundSteps,
      hleaves hperf (foldl_ackedSteps s code k b) hs.idlePosition hs.idleDrive⟩
  · exact .inr ⟨hperf.foregroundSteps, hleaves hperf (foldl_timeoutSteps s _) hs.idlePosition hs.idleDrive⟩

/-! ### Which poll is acknowledged (R260) -/

theorem FirstLow.unique {s : State} {j k : Nat} (h : FirstLow s j) (g : FirstLow s k) : j = k := by
  obtain ⟨hhigh, hlow⟩ := h
  obtain ⟨ghigh, glow⟩ := g
  rcases Nat.lt_trichotomy j k with hjk | hjk | hjk
  · simp [ghigh j hjk] at hlow
  · exact hjk
  · simp [hhigh k hjk] at glow

theorem FirstLow.not_allHigh {s : State} {k n : Nat} (h : FirstLow s k) (hk : k < n) : ¬ AllHigh s n := by
  intro hall
  obtain ⟨-, hlow⟩ := h
  simp [hall k hk] at hlow

/-- Settles O53: of the two ways the draws leave one, and there is one first low draw. -/
theorem interruptTakesFirstAck : Obligations.InterruptTakesFirstAck := by
  intro code tmo s hs hgate hrd hin hoff
  have ht : TickReady s := fun he => absurd (hoff.symm.trans he) Bool.false_ne_true
  obtain ⟨t, hexec, hways⟩ := exec_bcInt_performs hs (gatedOut_eq_false hgate) (hs.shaking hrd hin ht) code tmo
  refine ⟨fun k hk hhigh hlow => ?_, fun hhigh => ?_⟩
  · have hfirst : FirstLow s k := ⟨hhigh, hlow⟩
    rcases hways with ⟨j, b, -, hperf, hj⟩ | ⟨-, hall⟩
    · obtain rfl := (hj hoff).unique hfirst
      exact ⟨t.idle, b, hexec, hperf.foregroundSteps⟩
    · exact absurd (hall hoff) (hfirst.not_allHigh hk)
  · rcases hways with ⟨j, b, hlt, -, hj⟩ | ⟨hperf, -⟩
    · exact absurd hhigh ((hj hoff).not_allHigh hlt)
    · exact ⟨t.idle, hexec, hperf.foregroundSteps⟩

end Sys2Proof.Machine

/-! ## Range predicates, BC.INIT and BC.SHUTDOWN (45_queries_diagnostics.md R290 to R298, R305 to R307)

BC.INIT and BC.SHUTDOWN end in the same releases. With refresh off no tick falls among them, and `busReleased` says what
they make of the cells, whether they are performed from a machine that drives nothing shared (`seq_releaseAll`) or are
known to have succeeded (`bare_of_releaseAll`). -/

namespace Sys2Proof.Machine
open Sys2Proof.Claims

/-! ### Address classification (R290 to R298) -/

theorem inRange_eq_decide (first last : Nat) (a : Addr) :
    inRange first last a = decide (first ≤ a.toNat ∧ a.toNat ≤ last) := (Bool.decide_and _ _).symm

theorem answers_inRange {i : Instr} {first last : Nat} {a : Addr}
    (hi : ∀ s, exec i s = command (seq [answer fun _ => .bool (inRange first last a)]) s) {p : Prop} [Decidable p]
    (hp : p ↔ first ≤ a.toNat ∧ a.toNat ≤ last) : Answers i fun _ => .bool (decide p) := by
  have hbool : decide p = inRange first last a := by rw [inRange_eq_decide, decide_eq_decide.2 hp]
  rw [hbool]
  exact answers_of_pick hi fun _ => rfl

/-- Settles O55: each command answers its range in one micro-step; 0x0000 and 0xFFFF bound every address. -/
theorem rangePredicates : Obligations.RangePredicates := by
  intro a
  have hmax : a.toNat < 65536 := a.isLt
  exact ⟨⟨coded_of_layout rfl, answers_inRange (fun _ => rfl) (by omega)⟩,
    ⟨coded_of_layout rfl, answers_inRange (fun _ => rfl) Iff.rfl⟩,
    ⟨coded_of_layout rfl, answers_inRange (fun _ => rfl) Iff.rfl⟩,
    ⟨coded_of_layout rfl, answers_inRange (fun _ => rfl) Iff.rfl⟩,
    ⟨coded_of_layout rfl, answers_inRange (fun _ => rfl) Iff.rfl⟩,
    ⟨coded_of_layout rfl, answers_inRange (fun _ => rfl) Iff.rfl⟩,
    ⟨coded_of_layout rfl, answers_inRange (fun _ => rfl) Iff.rfl⟩,
    ⟨coded_of_layout rfl, answers_inRange (fun _ => rfl) (by omega)⟩⟩

/-- Command `i` completes at `s` with the one response true. -/
def respondsTrue (s : State) (i : Instr) : Bool :=
  match exec i s with
  | .next t => t.responses == s.responses ++ [.bool true]
  | _ => false

theorem respondsTrue_of_answers {i : Instr} {b : Bool} {s : State} (h : Answers i fun _ => .bool b) (hs : Quiet s) :
    respondsTrue s i = b := by
  have hresp : (s.idle.record .foreground (.respond (.bool b))).responses = s.responses ++ [.bool b] := by
    simp [State.responses, responseOf]
  rw [respondsTrue, h s hs]
  show (State.responses _ == _) = b
  rw [hresp]
  cases b <;> simp

/-- Settles O56: the eight ranges leave no gap and do not overlap. -/
theorem rangesPartition : Obligations.RangesPartition := by
  intro a s hs
  show (List.filter (respondsTrue s) _).length = 1
  obtain ⟨⟨-, rom⟩, ⟨-, unused⟩, ⟨-, mmio⟩, ⟨-, kbd⟩, ⟨-, video⟩, ⟨-, sysmem⟩, ⟨-, loexp⟩, -, hiexp⟩ :=
    rangePredicates a
  have hrange : a.toNat ≤ 0x2FFF ∨ (0x3000 ≤ a.toNat ∧ a.toNat ≤ 0x37DF) ∨ (0x37E0 ≤ a.toNat ∧ a.toNat ≤ 0x37FF) ∨
      (0x3800 ≤ a.toNat ∧ a.toNat ≤ 0x3BFF) ∨ (0x3C00 ≤ a.toNat ∧ a.toNat ≤ 0x3FFF) ∨
      (0x4000 ≤ a.toNat ∧ a.toNat ≤ 0x41FF) ∨ (0x4200 ≤ a.toNat ∧ a.toNat ≤ 0x7FFF) ∨ 0x8000 ≤ a.toNat := by omega
  simp only [← List.countP_eq_length_filter, List.countP_cons, List.countP_nil, respondsTrue_of_answers rom hs,
    respondsTrue_of_answers unused hs, respondsTrue_of_answers mmio hs, respondsTrue_of_answers kbd hs,
    respondsTrue_of_answers video hs, respondsTrue_of_answers sysmem hs, respondsTrue_of_answers loexp hs,
    respondsTrue_of_answers hiexp hs, decide_eq_true_eq]
  rcases hrange with h | h | h | h | h | h | h | h <;> simp (disch := omega) only [if_pos, if_neg]

/-! ### The releases (R305, R306) -/

/-- How the releases leave BMC: every signal an input, both buses undriven and readable, and so the bus lost (R37). -/
def busReleased (s : State) : State :=
  { s with
    signals := released s.signals
    ab := { s.ab with mask := 0x0000, writable := false }
    db := { s.db with mask := 0x00, writable := false }
    busGranted := false }

theorem releaseAll_eq_map_act : releaseAll = releaseSteps.map act := rfl

theorem picked_releaseAll (s : State) : picked releaseAll s = releaseSteps := by
  rw [releaseAll_eq_map_act, picked_map_act]

theorem draws_releaseAll (s : State) : draws releaseAll s = 0 := by rw [releaseAll_eq_map_act, draws_map_act]

theorem foldl_releaseSteps (s : State) : releaseSteps.foldl MicroStep.apply s = busReleased s := rfl

theorem releaseAll_ne_setRefresh : ∀ p ∈ releaseAll, ∀ u, (p u).2 ≠ .setRefresh true := by
  simp [releaseAll, allSignals, release, act]

theorem Aloof.release {s : State} (h : Aloof s) (n : Signal) (l : Level) : Aloof (s.setLine n ⟨.input, l⟩) where
  disarmed := h.disarmed
  abMask := h.abMask
  dbMask := h.dbMask
  unshared := by
    have hin := h.unshared
    simp only [State.sharedOut, List.any_eq_false, beq_iff_eq] at hin ⊢
    intro k hk
    by_cases hkn : k = n
    · rw [hkn, State.line_setLine_same]
      simp
    · rw [State.line_setLine_other _ s hkn]
      exact hin k hk

theorem proceeds_release (n : Signal) : Proceeds Aloof (release n) := fun _ h =>
  ⟨by simp [release, act, MicroStep.prevented], h.release n _⟩

theorem proceeds_releaseAll : ∀ p ∈ releaseAll, Proceeds Aloof p := by
  intro p hp
  rcases List.mem_append.1 hp with hp | hp
  · obtain ⟨n, -, rfl⟩ := List.mem_map.1 hp
    exact proceeds_release n
  · rcases List.mem_pair.1 hp with rfl | rfl
    · exact fun _ h => ⟨rfl, h.disarmed, rfl, h.dbMask, h.unshared⟩
    · exact fun _ h => ⟨rfl, h.disarmed, h.abMask, rfl, h.unshared⟩

/-- From a machine that drives nothing shared, the releases are performed to their end. -/
theorem seq_releaseAll {s : State} (h : Aloof s) :
    seq releaseAll s = .ok (ran releaseAll s) ∧ Aloof (ran releaseAll s) :=
  seq_of_undisturbed aloof_ofCells (fun _ => Aloof.undisturbed) proceeds_releaseAll h

/-! ### BC.INIT (R305) -/

/-- What BC.INIT does while Immutable. -/
def initPicks (rc : Bool) : List Pick := releaseAll ++ [act (.setConfigured rc)]

theorem exec_bcInit_eq {s : State} (hm : s.mutable = false) (rc : Bool) :
    exec (.bcInit rc) s = command (seq (initPicks rc)) s := by
  have hm' : s.idle.mutable = false := hm
  unfold exec execBcInit
  exact command_congr (by simp only [hm', Bool.false_eq_true, if_false]; rfl)

theorem proceeds_initPicks (rc : Bool) : ∀ p ∈ initPicks rc, Proceeds Aloof p := by
  refine List.forall_mem_append.2 ⟨proceeds_releaseAll, ?_⟩
  simp only [List.forall_mem_singleton]
  exact fun _ h => ⟨rfl, h.disarmed, h.abMask, h.dbMask, h.unshared⟩

theorem initPicks_eq_map_act (rc : Bool) :
    initPicks rc = (releaseSteps ++ [MicroStep.setConfigured rc]).map act := by
  rw [initPicks, releaseAll_eq_map_act, List.map_append]
  rfl

/-- How BC.INIT leaves BMC. -/
def initialised (rc : Bool) (s : State) : State := { busReleased s with refreshConfigured := rc }

theorem foldl_initSteps (rc : Bool) (s : State) :
    (releaseSteps ++ [MicroStep.setConfigured rc]).foldl MicroStep.apply s = initialised rc s := by
  rw [List.foldl_append, foldl_releaseSteps]
  rfl

theorem exec_bcInit_releases {s : State} (hs : Inv s) (hm : s.mutable = false) (rc : Bool) :
    exec (.bcInit rc) s = .next (logged 0 (releaseSteps ++ [.setConfigured rc]) (initialised rc s)) := by
  have hidle := State.idle_eq_self hs.idlePosition hs.idleDrive
  have hidle' : (initialised rc s).idle = initialised rc s := State.idle_eq_self hs.idlePosition hs.idleDrive
  obtain ⟨hseq, -⟩ :=
    seq_of_undisturbed aloof_ofCells (fun _ => Aloof.undisturbed) (proceeds_initPicks rc) (hs.aloof hm)
  have hbody : seq (initPicks rc) s.idle = .ok (ran (initPicks rc) s) := by rw [hidle, hseq]
  rw [exec_bcInit_eq hm, command_of_ok hbody, idle_ran, initPicks_eq_map_act, picked_map_act,
    draws_map_act, foldl_initSteps, hidle']

/-- Settles O58: while Immutable BMC drives nothing shared, so that no release leaves a hazard. -/
theorem initialise : Obligations.Initialise := by
  refine fun rc s => ⟨coded_of_layout rfl, fun hs hm => ?_, fun hs hm => exec_bcInit_releases hs hm rc⟩
  have hlog : exec (.bcInit rc) s = command (seq [logStep .errContract]) s := by
    have hm' : s.idle.mutable = true := hm
    simp only [exec, execBcInit, command, hm', if_true]
  exact exec_of_inert_pick hlog rfl (inert_log _) hs

/-! ### BC.SHUTDOWN (R306) -/

theorem exec_bcShutdown_eq_of_immutable {s : State} (hm : s.mutable = false) :
    exec .bcShutdown s = command (seq releaseAll) s := by
  have hm' : ¬ s.idle.mutable = true := by simp [hm]
  unfold exec execBcShutdown
  exact command_congr ((congrArg (· >>= seq releaseAll) (if_neg hm')).trans (ok_bind _ _))

theorem exec_bcShutdown_eq_of_mutable {s : State} (hm : s.mutable = true) :
    exec .bcShutdown s = command (fun u => testoffBody u >>= seq releaseAll) s := by
  have hm' : s.idle.mutable = true := hm
  unfold exec execBcShutdown
  exact command_congr (congrArg (· >>= seq releaseAll) (if_pos hm'))

theorem exec_bcShutdown_releases {s : State} (hs : Inv s) (hm : s.mutable = false) :
    exec .bcShutdown s = .next (logged 0 releaseSteps (busReleased s)) := by
  have hidle := State.idle_eq_self hs.idlePosition hs.idleDrive
  have hidle' : (busReleased s).idle = busReleased s := State.idle_eq_self hs.idlePosition hs.idleDrive
  obtain ⟨hseq, -⟩ := seq_releaseAll (hs.aloof hm)
  have hbody : seq releaseAll s.idle = .ok (ran releaseAll s) := by rw [hidle, hseq]
  rw [exec_bcShutdown_eq_of_immutable hm, command_of_ok hbody, idle_ran, picked_releaseAll, draws_releaseAll,
    foldl_releaseSteps, hidle']

/-- BC.TESTOFF's body leaves a machine that drives nothing shared. -/
theorem testoffBody_aloof {s t : State} (hs : Inv s) {b1 b2 b3 : Bool} (hu : ReadableUndriven s)
    (hbody : testoffBody s = .ok t) (hdoes : Does s t (giveBackSteps s b1 b2 b3)) : Aloof t := by
  have hexec : exec .bcTestoff s = .next t.idle :=
    command_of_ok ((State.idle_eq_self hs.idlePosition hs.idleDrive).symm ▸ hbody)
  have hcells : t.bare.sansTicks = (busGivenBack s).bare.sansTicks := by
    rw [← foldl_giveBackSteps hu b1 b2 b3]
    exact hdoes.cells
  have hmut : t.mutable = false := by have e := congrArg State.mutable hcells; exact e
  exact aloof_ofCells.of_bare_eq (State.bare_idle t).symm ((exec_keeps_inv hs hexec).aloof hmut)

theorem bare_foldl_shutdownSteps {s : State} (hu : ReadableUndriven s) (b1 b2 b3 : Bool) :
    (giveBackSteps s b1 b2 b3 ++ releaseSteps).foldl MicroStep.apply s =
      { busReleased s with mutable := false, refreshEnabled := false } := by
  rw [List.foldl_append, foldl_giveBackSteps hu, foldl_releaseSteps]
  rfl

/-- Settles O59: BC.TESTOFF leaves nothing shared driven, and refresh off, so that the releases follow with no tick
among them and no hazard after any. -/
theorem shutdown : Obligations.Shutdown := by
  refine ⟨coded_of_layout rfl, fun s hs => ⟨fun hm => exec_bcShutdown_releases hs hm, fun hm ht hu => ?_⟩⟩
  have hidle := State.idle_eq_self hs.idlePosition hs.idleDrive
  obtain ⟨t, b1, b2, b3, hbody, hdoes, hexact⟩ :=
    testoffBody_gives hs.idlePosition (quiet_of_noAckDrive hs.idleDrive hs.noContention) hm ht hu
  have hgives : Performs s t (giveBackSteps s b1 b2 b3) := ⟨hdoes, fun hoff =>
    ⟨congrArg State.refreshEnabled (hexact hoff), by rw [foldl_giveBackSteps hu]; exact hexact hoff⟩⟩
  obtain ⟨hseq, -⟩ := seq_releaseAll (testoffBody_aloof hs hu hbody hdoes)
  have hall : Performs s (ran releaseAll t) (giveBackSteps s b1 b2 b3 ++ releaseSteps) :=
    hgives.trans (performs_ran releaseAll_ne_setRefresh t)
  refine ⟨(ran releaseAll t).idle, b1, b2, b3, ?_, ?_,
    ⟨t.idle, command_of_ok (hidle.symm ▸ hbody), hdoes.foregroundSteps⟩, ?_⟩
  · rw [exec_bcShutdown_eq_of_mutable hm]
    exact command_of_ok (by rw [hidle, hbody, ok_bind, hseq])
  · exact hall.foregroundSteps.trans (List.append_assoc _ _ _).symm
  · have hleaves := hall.leaves (congrArg State.bare (bare_foldl_shutdownSteps hu b1 b2 b3))
    rwa [State.idle_eq_self (by exact hs.idlePosition) (by exact hs.idleDrive)] at hleaves

/-! ### The cells at reset again (R307) -/

/-- With refresh off, a sequence that succeeds has no tick in it. -/
theorem ran_of_seq_ok {ps : List Pick} (hps : ∀ p ∈ ps, ∀ u, (p u).2 ≠ .setRefresh true) {s t : State}
    (hs : s.refreshEnabled = false) (h : seq ps s = .ok t) : t = ran ps s := by
  induction ps generalizing s with
  | nil => exact (Except.ok.inj h).symm
  | cons p ps ih =>
    rw [seq_cons, micro_of_gap (gap_of_disarmed hs)] at h
    obtain ⟨u, hu, h⟩ := bind_ok_iff.1 h
    obtain ⟨-, -, rfl⟩ := perform_ok_iff.1 hu
    have hoff := ((performs_performed (hps p List.mem_cons_self s) (p s).1 false s).still hs).1
    exact ih (fun q hq => hps q (List.mem_cons_of_mem _ hq)) hoff h

/-- Whatever the releases start from, with refresh off they leave it released. -/
theorem bare_of_releaseAll {s t : State} (hs : s.refreshEnabled = false) (h : seq releaseAll s = .ok t) :
    t.bare = (busReleased s).bare := by
  rw [ran_of_seq_ok releaseAll_ne_setRefresh hs h, bare_ran, picked_releaseAll, foldl_releaseSteps]

theorem immutable_gapKeeps : GapKeeps (fun s => s.mutable = false) := fun _ _ h hg => (gap_ok hg).mutable.trans h

theorem apply_keeps_immutable {m : MicroStep} (hm : m ≠ .setMutable true) {s : State} (h : s.mutable = false) :
    (m.apply s).mutable = false := by
  cases m with
  | setMutable b => simpa [MicroStep.apply] using hm
  | _ => exact h

theorem pickKeeps_immutable {p : Pick} (hp : ∀ s, (p s).2 ≠ .setMutable true) :
    PickKeeps (fun s => s.mutable = false) p := fun s _ _ hu _ _ =>
  (State.performed_mutable _ _ _ _).trans (apply_keeps_immutable (hp s) hu)

theorem giveBackTail_ne_setMutable : ∀ p ∈ giveBackTail, ∀ s, (p s).2 ≠ .setMutable true := by
  have hdb (s : State) : (dbSetrBody s).2 ≠ .setMutable true := by unfold dbSetrBody; split <;> nofun
  have hab (s : State) : (abSetrBody s).2 ≠ .setMutable true := by unfold abSetrBody; split <;> nofun
  simp [giveBackTail, giveBackLines, release, deassertLine, requestLine, act, hold, hdb, hab]

theorem testoffBody_immutable {s t : State} (hm : s.mutable = true) (h : testoffBody s = .ok t) :
    t.mutable = false := by
  rw [testoffBody_of_mutable hm] at h
  exact seq_establishes (P := fun s => s.mutable = false) (p := act (.setMutable false)) [act .check, refoffBody]
    giveBackTail.tail immutable_gapKeeps (fun _ => rfl)
    (fun q hq => pickKeeps_immutable (giveBackTail_ne_setMutable q (List.mem_of_mem_tail hq))) h

/-- A BC.SHUTDOWN that completes, from any state with the invariant, ends in the releases of an Immutable machine with
refresh off. -/
theorem exec_bcShutdown_ok {s t : State} (hr : s.refreshEnabled = true → s.mutable = true)
    (h : exec .bcShutdown s = .next t) :
    ∃ v, v.mutable = false ∧ v.refreshEnabled = false ∧ t.bare = (busReleased v).bare := by
  unfold exec execBcShutdown at h
  obtain ⟨u, hu, rfl⟩ := command_next_iff.1 h
  obtain ⟨v, hv, hu⟩ := bind_ok_iff.1 hu
  have hoff : v.mutable = false ∧ v.refreshEnabled = false := by
    split at hv
    · next hm => exact ⟨testoffBody_immutable hm hv, (testoffBody_handsBack hm hv).disarmed⟩
    · next hm =>
      cases hv
      exact ⟨Bool.eq_false_iff.2 hm, Bool.eq_false_iff.2 fun he => hm (hr he)⟩
  obtain ⟨himm, hdis⟩ := hoff
  exact ⟨v, himm, hdis, (State.bare_idle u).trans (bare_of_releaseAll hdis hu)⟩

/-- A BC.INIT that is not rejected ends likewise. -/
theorem exec_bcInit_ok {rc : Bool} {s t : State} (hs : Inv s) (hm : s.mutable = false)
    (h : exec (.bcInit rc) s = .next t) :
    ∃ v, v.mutable = false ∧ v.refreshEnabled = false ∧ t.bare = (busReleased v).bare := by
  rw [exec_bcInit_releases hs hm] at h
  cases h
  exact ⟨{ s with refreshConfigured := rc }, hm, (hs.aloof hm).disarmed, rfl⟩

theorem line_busReleased_dir (s : State) (n : Signal) : ((busReleased s).line n).dir = .input := by cases n <;> rfl

/-- Settles O60: both commands end in the releases; no cycle is open between commands, so `masked` is false. -/
theorem initAndShutdownRestoreReset : Obligations.InitAndShutdownRestoreReset := by
  intro i s t hs h hi
  obtain ⟨v, himm, hoff, hcells⟩ :
      ∃ v, v.mutable = false ∧ v.refreshEnabled = false ∧ t.bare = (busReleased v).bare := by
    rcases hi with ⟨⟨rc, rfl⟩, hm⟩ | rfl
    · exact exec_bcInit_ok hs hm h
    · exact exec_bcShutdown_ok hs.refreshMutable h
  have same {β : Type} (f : State → β) := congrArg f hcells
  exact ⟨fun n => (same fun u => (u.line n).dir).trans (line_busReleased_dir v n), same fun u => u.ab.mask,
    same fun u => u.ab.writable, same fun u => u.db.mask, same fun u => u.db.writable,
    (same State.mutable).trans himm, (same State.refreshEnabled).trans hoff, (exec_keeps_inv hs h).unmasked,
    same State.busGranted⟩

end Sys2Proof.Machine

/-! ## The controller string (45_queries_diagnostics.md R301)

BC.STATE is fifteen micro-steps that change no cell, with ticks between them where those are enabled, `Mutable` or not.
`Observes` says what such a stretch comes to; the cells of its two ends differ as two states with ticks between them, so
that the lemmas of `TicksOnly` speak of them. -/

namespace Sys2Proof.Machine
open Sys2Proof.Claims

/-! ### Stretches that change no cell -/

/-- No hazard stands for an agent at rest, and no tick can fault. -/
structure Watching (s : State) : Prop where
  quiet : Quiet s
  ready : s.tickEnabled = true → s.signals.ras.dir = .output

theorem watching_ofCells : OfCells Watching := fun s =>
  ⟨fun ⟨hq, hr⟩ => ⟨(quiet_ofCells s).1 hq, hr⟩, fun ⟨hq, hr⟩ => ⟨(quiet_ofCells s).2 hq, hr⟩⟩

theorem TickReady.watching {s : State} (h : TickReady s) (hs : Quiet s) : Watching s :=
  ⟨hs, fun he => h (by simp_all [State.tickEnabled])⟩

theorem TicksOnly.watching {s t : State} (g : TicksOnly s t) (h : Watching s) : Watching t :=
  ⟨g.quiet h.quiet, fun he => (g.line_dir .ras).trans (h.ready (g.tickEnabled.symm.trans he))⟩

theorem TicksOnly.bare {s t : State} (h : TicksOnly s t) : TicksOnly s.bare t.bare where
  same := congrArg State.bare h.same
  inputsDrop := ⟨0, rfl, rfl⟩
  events := ⟨[], rfl, by simp⟩
  rasLevel := h.rasLevel

/-- `t` is `s` after the micro-steps `ms`, which change no cell and take `k` draws, and the ticks among them. -/
structure Observes (s t : State) (k : Nat) (ms : List MicroStep) : Prop where
  cells : TicksOnly s.bare t.bare
  foregroundSteps : t.foregroundSteps = s.foregroundSteps ++ ms
  still : s.tickEnabled = false → t.idle = logged k ms s.idle

theorem logged_nil (s : State) : logged 0 [] s = s := by
  cases s
  simp [logged]

theorem Observes.refl (s : State) : Observes s s 0 [] where
  cells := .refl _
  foregroundSteps := (List.append_nil _).symm
  still _ := (logged_nil _).symm

theorem logged_logged (j k : Nat) (ms ns : List MicroStep) (s : State) :
    logged k ns (logged j ms s) = logged (j + k) (ms ++ ns) s := by
  simp [logged, List.drop_drop, Nat.add_assoc]

section
variable {s t : State} {k : Nat} {ms : List MicroStep} (h : Observes s t k ms)
include h

theorem Observes.tickEnabled : t.tickEnabled = s.tickEnabled := h.cells.tickEnabled

theorem Observes.trans {u : State} {j : Nat} {ns : List MicroStep} (g : Observes t u j ns) :
    Observes s u (k + j) (ms ++ ns) where
  cells := h.cells.trans g.cells
  foregroundSteps := by rw [g.foregroundSteps, h.foregroundSteps, List.append_assoc]
  still hoff := by rw [g.still (h.tickEnabled.trans hoff), h.still hoff, logged_logged]

theorem Observes.watching (hs : Watching s) : Watching t :=
  (watching_ofCells t).1 (h.cells.watching ((watching_ofCells s).2 hs))

theorem Observes.line_dir (n : Signal) : (t.line n).dir = (s.line n).dir := h.cells.line_dir n

theorem Observes.line_eq {n : Signal} (hn : n ≠ .ras) : t.line n = s.line n := h.cells.line_eq hn

theorem Observes.db : t.db = s.db := h.cells.db

theorem Observes.abMask : t.ab.mask = s.ab.mask := h.cells.abMask

theorem Observes.abWritable : t.ab.writable = s.ab.writable := h.cells.abWritable

theorem Observes.abHigh : t.ab.latch &&& 0xFF00 = s.ab.latch &&& 0xFF00 := h.cells.abHigh

/-- Where no tick runs, every cell is as it was. -/
theorem Observes.bare (hoff : s.tickEnabled = false) : t.bare = s.bare := by
  have e := congrArg State.bare (h.still hoff)
  exact e

theorem Observes.leaves : Leaves s s.idle t.idle :=
  leaves_of_bare h.cells.same fun hoff => h.bare (by simp [State.tickEnabled, hoff])

/-- Where no tick runs, the next draws follow those taken. -/
theorem Observes.drawn (hoff : s.tickEnabled = false) (j : Nat) : t.drawn j = s.drawn (k + j) := by
  have hdrawn : t.idle.drawn j = (logged k ms s.idle).drawn j := by rw [h.still hoff]
  simpa [State.drawn, logged, Nat.add_assoc] using hdrawn

theorem Observes.ab (hoff : s.tickEnabled = false) : t.ab = s.ab := by
  have e := congrArg State.ab (h.bare hoff)
  exact e

theorem Observes.seen (hoff : s.tickEnabled = false) (n : Signal) (j : Nat) :
    Claims.seen t n j = Claims.seen s n (k + j) := by
  have hline : t.line n = s.line n := by
    have e := congrArg (fun u : State => u.line n) (h.bare hoff)
    exact e
  rw [Claims.seen, Claims.seen, hline, State.drawnLevel, State.drawnLevel, h.drawn hoff]

end

/-! ### One micro-step that changes no cell -/

/-- The boundary before a micro-step: none at the start of a command, and none where the tick is not enabled. -/
theorem Watching.pause {s : State} (h : Watching s) :
    ∃ v, gap s = .ok v ∧ Watching v ∧ (s.position = 0 ∨ s.tickEnabled = false → v = s) := by
  have hgap : ∃ v, gap s = .ok v := by
    cases he : s.tickEnabled with
    | false => exact ⟨s, gap_of_disabled he⟩
    | true => exact gap_succeeds_of_tickReady (contention_of_quiet h.quiet) fun _ => h.ready he
  obtain ⟨v, hv⟩ := hgap
  refine ⟨v, hv, (gap_ok hv).watching h, ?_⟩
  rintro (hp | hoff)
  · exact (Except.ok.inj ((gap_of_start hp).symm.trans hv)).symm
  · exact (Except.ok.inj ((gap_of_disabled hoff).symm.trans hv)).symm

/-- A micro-step that changes no cell, with the ticks before it. -/
theorem Watching.observes {s v : State} (hw : Watching v) (hv : gap s = .ok v) {m : MicroStep} (hm : Inert m)
    (k : Nat) : perform k false m v = .ok (v.performed k false m) ∧ Observes s (v.performed k false m) k [m] := by
  have only := gap_ok hv
  have hcells := bare_performed_of_inert hm k false v
  refine ⟨perform_of_safe (hm v).1 (contention_of_quiet (quiet_ofCells.of_bare_eq hcells hw.quiet)), ?_, ?_, ?_⟩
  · rw [hcells]
    exact only.bare
  · rw [(does_performed k false m v).foregroundSteps, only.foregroundSteps]
  · intro hoff
    obtain rfl : s = v := Except.ok.inj ((gap_of_disabled hoff).symm.trans hv)
    rw [performed_of_inert hm]
    rfl

theorem Watching.responds {s : State} (h : Watching s) (r : Response) :
    ∃ t, seq [respond r] s = .ok t ∧ Observes s t 0 [.respond r] := by
  obtain ⟨v, hv, hw, -⟩ := h.pause
  obtain ⟨hperf, hobs⟩ := hw.observes hv (inert_respond r) 0
  refine ⟨_, ?_, hobs⟩
  rw [seq_singleton, micro_of_gap hv]
  exact hperf

/-! ### The twelve signals -/

/-- The signals' part of the controller string. -/
def signalsString (s : State) (xs : List (Signal × String)) (ls : List Level) : List Char :=
  (xs.zip ls).flatMap fun ((n, name), l) =>
    [' '] ++ name.toList ++ [':', if (s.line n).dir = .output then 'o' else 'i', if l = .high then 'H' else 'L']

/-- The samples of the signals. -/
def sampleSteps (xs : List (Signal × String)) (ls : List Level) : List MicroStep :=
  (xs.zip ls).map fun ((n, _), l) => .sampleLine n l

/-- The levels sampled where no tick runs, a draw each. -/
def levelsSeen (s : State) (xs : List (Signal × String)) : List Level :=
  (xs.zip (List.range xs.length)).map fun ((n, _), k) => seen s n k

theorem signalsString_congr {s t : State} (h : ∀ n, (t.line n).dir = (s.line n).dir) (xs : List (Signal × String))
    (ls : List Level) : signalsString t xs ls = signalsString s xs ls := by simp only [signalsString, h]

theorem levelsSeen_cons {s t : State} (h : ∀ n j, seen t n j = seen s n (1 + j)) (x : Signal × String)
    (xs : List (Signal × String)) : levelsSeen s (x :: xs) = seen s x.1 0 :: levelsSeen t xs := by
  simp [levelsSeen, h, List.range_succ_eq_map, List.zip_map_right, Nat.add_comm 1]

theorem signalText_eq {x : Signal × String} (hx : signalName x.1 = x.2.toList) (d : Dir) (l : Level) :
    signalText x.1 d l =
      [' '] ++ x.2.toList ++ [':', if d = .output then 'o' else 'i', if l = .high then 'H' else 'L'] := by
  simp [signalText, hx]

/-- The samples of a list of signals. RAS, whose level a tick writes, is sampled before any tick, or not at all. -/
theorem Watching.samples {xs : List (Signal × String)} (hnames : ∀ x ∈ xs, signalName x.1 = x.2.toList)
    (hrest : ∀ x ∈ xs.tail, x.1 ≠ .ras) {s : State} (hfirst : s.position = 0 ∨ ∀ x ∈ xs, x.1 ≠ .ras)
    (h : Watching s) :
    ∃ ls t, signalTexts (xs.map Prod.fst) s = .ok (signalsString s xs ls, t) ∧
      Observes s t xs.length (sampleSteps xs ls) ∧ ls.length = xs.length ∧
      (∀ p ∈ xs.zip ls, (s.line p.1.1).dir = .output → p.2 = (s.line p.1.1).lvl) ∧
      (s.tickEnabled = false → ls = levelsSeen s xs) := by
  induction xs generalizing s with
  | nil => exact ⟨[], s, rfl, .refl s, rfl, by simp, fun _ => rfl⟩
  | cons x xs ih =>
    obtain ⟨v, hv, hw, hsame⟩ := h.pause
    obtain ⟨hperf, hobs⟩ := hw.observes hv (m := .sampleLine x.1 (v.lineLevel x.1 0)) (fun _ => ⟨rfl, rfl⟩) 1
    obtain ⟨ls, t, htexts, hobs', hlen, hdriven, hlevels⟩ :=
      ih (fun y hy => hnames y (List.mem_cons_of_mem _ hy)) (fun y hy => hrest y (List.mem_of_mem_tail hy))
        (.inr hrest) (hobs.watching h)
    have hline : v.line x.1 = s.line x.1 := by
      rcases hfirst with hp | hne
      · rw [hsame (.inl hp)]
      · exact (gap_ok hv).line_eq (hne x List.mem_cons_self)
    refine ⟨v.lineLevel x.1 0 :: ls, t, ?_, ?_, congrArg Nat.succ hlen, ?_, fun hoff => ?_⟩
    · rw [signalsString_congr hobs.line_dir] at htexts
      rw [List.map_cons, signalTexts, readStep_of_gap hv, hperf]
      show (signalTexts _ _ >>= _) = _
      rw [htexts, ok_bind]
      show (Except.ok (signalText x.1 _ _ ++ _, t) : Except Fault _) = _
      rw [hobs.line_dir, signalText_eq (hnames x List.mem_cons_self)]
      rfl
    · rw [List.length_cons, Nat.add_comm]
      exact hobs.trans hobs'
    · intro p hp hout
      rcases List.mem_cons.1 hp with rfl | hp
      · rw [lineLevel_eq_seen, seen, hline, if_pos hout]
      · have hne : p.1.1 ≠ .ras := hrest _ (List.of_mem_zip hp).1
        rw [← hobs.line_eq hne] at hout ⊢
        exact hdriven p hp hout
    · rw [hlevels (hobs.tickEnabled.trans hoff), levelsSeen_cons (hobs.seen hoff), hsame (.inr hoff),
        lineLevel_eq_seen]

/-! ### The buses -/

theorem busString_congr {n : Nat} {b c : Bus n} (hm : c.mask = b.mask) (hw : c.writable = b.writable) (tag : String)
    (v : BitVec n) : busString tag c v = busString tag b v := by simp only [busString, hm, hw]

/-- The masked bits of A15..A8 depend on the high byte alone. -/
theorem and_maskHigh_congr {v w : Addr} (h : v &&& 0xFF00 = w &&& 0xFF00) (mask : Addr) :
    v &&& (mask &&& 0xFF00) = w &&& (mask &&& 0xFF00) :=
  calc v &&& (mask &&& 0xFF00) = (v &&& 0xFF00) &&& mask := by ac_rfl
    _ = (w &&& 0xFF00) &&& mask := by rw [h]
    _ = w &&& (mask &&& 0xFF00) := by ac_rfl

/-- The driven bits of A15..A8 read as the latch's. -/
theorem shown_and_maskHigh (latch mask env : Addr) :
    shown latch mask env &&& (mask &&& 0xFF00) = latch &&& (mask &&& 0xFF00) := by
  rw [← BitVec.and_assoc, shown_and_mask, BitVec.and_assoc]

theorem Watching.addressString {s : State} (h : Watching s) :
    ∃ a t, abStateBody s = .ok (busString "ADDR" s.ab a, t) ∧ Observes s t 1 [.sampleAb a] ∧
      a &&& (s.ab.mask &&& 0xFF00) = s.ab.latch &&& (s.ab.mask &&& 0xFF00) ∧
      (s.tickEnabled = false → a = abShown s) := by
  obtain ⟨v, hv, hw, hsame⟩ := h.pause
  obtain ⟨hperf, hobs⟩ := hw.observes hv (m := .sampleAb (v.abLines 0)) (fun _ => ⟨rfl, rfl⟩) 1
  have only := gap_ok hv
  refine ⟨v.abLines 0, _, ?_, hobs, ?_, fun hoff => ?_⟩
  · rw [abStateBody, readStep_of_gap hv, hperf,
      ← busString_congr hobs.abMask hobs.abWritable, ← busText_eq_busString]
    rfl
  · rw [← only.abMask]
    exact (shown_and_maskHigh _ _ _).trans (and_maskHigh_congr only.abHigh _)
  · rw [hsame (.inr hoff)]
    rfl

theorem Watching.dataString {s : State} (h : Watching s) :
    ∃ d t, dbStateBody s = .ok (busString "DATA" s.db d, t) ∧ Observes s t 1 [.sampleDb d] ∧
      d &&& s.db.mask = s.db.latch &&& s.db.mask ∧ (s.tickEnabled = false → d = dbShown s) := by
  obtain ⟨v, hv, hw, hsame⟩ := h.pause
  obtain ⟨hperf, hobs⟩ := hw.observes hv (m := .sampleDb (v.dbLines 0)) (fun _ => ⟨rfl, rfl⟩) 1
  refine ⟨v.dbLines 0, _, ?_, hobs, ?_, fun hoff => ?_⟩
  · rw [dbStateBody, readStep_of_gap hv, hperf, ← hobs.db, ← busText_eq_busString]
    rfl
  · rw [← (gap_ok hv).db]
    exact shown_and_mask _ _ _
  · rw [hsame (.inr hoff)]
    rfl

theorem Observes.abShown {s t : State} {k : Nat} {ms : List MicroStep} (h : Observes s t k ms)
    (hoff : s.tickEnabled = false) : Claims.abShown t = shown s.ab.latch s.ab.mask (abEnv s k) := by
  rw [Claims.abShown, abEnv, h.drawn hoff, h.ab hoff]
  rfl

theorem Observes.dbShown {s t : State} {k : Nat} {ms : List MicroStep} (h : Observes s t k ms)
    (hoff : s.tickEnabled = false) : Claims.dbShown t = shown s.db.latch s.db.mask (dbEnv s k) := by
  rw [Claims.dbShown, dbEnv, h.drawn hoff, h.db]
  rfl

/-! ### The command -/

theorem signalName_of_mem_signalNames : ∀ x ∈ signalNames, signalName x.1 = x.2.toList := by
  simp [signalNames, signalName]

theorem stateSteps_eq (s : State) (ls : List Level) (a : Addr) (d : Byte) :
    stateSteps s ls a d = sampleSteps signalNames ls ++
      ([.sampleAb a] ++ ([.sampleDb d] ++ [.respond (.text (controllerString s ls a d))])) := rfl

theorem levelsSeen_signalNames (s : State) : levelsSeen s signalNames = sampledLevels s := rfl

theorem decimalText_eq_decimal (k : Nat) : decimalText k = decimal k := by simp [decimalText, decimal, Nat.repr]

theorem controllerHead_eq (s : State) : controllerHead s =
    "BUS<".toList ++ [if s.mutable then 'M' else 'I', '-', if s.refreshEnabled then 'E' else 'D', '-']
      ++ decimal s.refreshRow.toNat ++ ['>'] := by
  rw [controllerHead, decimalText_eq_decimal]
  rfl

theorem controllerString_eq (s : State) (ls : List Level) (a : Addr) (d : Byte) :
    controllerString s ls a d = controllerHead s ++ signalsString s signalNames ls ++ [' '] ++ busString "ADDR" s.ab a
      ++ [' '] ++ busString "DATA" s.db d := by
  rw [controllerHead_eq]
  rfl

/-- BC.STATE's body, given what its parts come to: the head is read before the first sample. -/
theorem exec_bcState_of_parts {s t₁ t₂ t₃ t : State} {ls : List Level} {a : Addr} {d : Byte}
    (hsignals : signalTexts (signalNames.map Prod.fst) s.idle = .ok (signalsString s signalNames ls, t₁))
    (haddr : abStateBody t₁ = .ok (busString "ADDR" s.ab a, t₂))
    (hdata : dbStateBody t₂ = .ok (busString "DATA" s.db d, t₃))
    (hresp : seq [respond (.text (controllerString s ls a d))] t₃ = .ok t) : exec .bcState s = .next t.idle := by
  have htext : controllerHead s ++ signalsString s signalNames ls ++ ' ' :: busString "ADDR" s.ab a
      ++ ' ' :: busString "DATA" s.db d = controllerString s ls a d := by
    simp only [controllerString_eq, List.append_assoc, List.cons_append, List.nil_append]
  unfold exec execBcState
  refine command_of_ok ?_
  show (signalTexts (signalNames.map Prod.fst) s.idle >>= _) = _
  rw [hsignals, ok_bind]
  show (abStateBody t₁ >>= _) = _
  rw [haddr, ok_bind]
  show (dbStateBody t₂ >>= _) = _
  rw [hdata, ok_bind, ← hresp, ← htext]
  rfl

/-- BC.STATE samples the lines and the buses, and responds a string of what it sampled that shows the flags, the row and
the directions as they were before. -/
theorem exec_bcState_observes {s : State} (h : Watching s) :
    ∃ t ls a d, exec .bcState s = .next t.idle ∧ Observes s.idle t 14 (stateSteps s ls a d) ∧ ls.length = 12 ∧
      (∀ p ∈ signalNames.zip ls, (s.line p.1.1).dir = .output → p.2 = (s.line p.1.1).lvl) ∧
      a &&& (s.ab.mask &&& 0xFF00) = s.ab.latch &&& (s.ab.mask &&& 0xFF00) ∧
      d &&& s.db.mask = s.db.latch &&& s.db.mask ∧
      (s.tickEnabled = false → ls = sampledLevels s ∧ a = shown s.ab.latch s.ab.mask (abEnv s 12) ∧
        d = shown s.db.latch s.db.mask (dbEnv s 13)) := by
  have hidle : Watching s.idle := ⟨h.quiet, h.ready⟩
  obtain ⟨ls, t₁, hsignals, obs₁, hlen, hdriven, hlevels⟩ :=
    hidle.samples signalName_of_mem_signalNames (by simp [signalNames]) (.inl rfl)
  obtain ⟨a, t₂, haddr, obs₂, hab, hshown⟩ := (obs₁.watching hidle).addressString
  have obs₁₂ := obs₁.trans obs₂
  obtain ⟨d, t₃, hdata, obs₃, hdb, hshown'⟩ := (obs₁₂.watching hidle).dataString
  have obs₁₃ := obs₁₂.trans obs₃
  obtain ⟨t, hresp, obs₄⟩ := (obs₁₃.watching hidle).responds (.text (controllerString s ls a d))
  have hmask : t₁.ab.mask = s.ab.mask := obs₁.abMask
  rw [busString_congr obs₁.abMask obs₁.abWritable] at haddr
  rw [obs₁₂.db] at hdata hdb
  rw [hmask, and_maskHigh_congr obs₁.abHigh] at hab
  refine ⟨t, ls, a, d, exec_bcState_of_parts hsignals haddr hdata hresp, ?_, hlen, hdriven, hab, hdb, fun hoff => ?_⟩
  · have hall := obs₁₃.trans obs₄
    rw [List.append_assoc, List.append_assoc, ← stateSteps_eq] at hall
    exact hall
  · exact ⟨(hlevels hoff).trans (levelsSeen_signalNames s), (hshown (obs₁.tickEnabled.trans hoff)).trans (obs₁.abShown hoff),
      (hshown' (obs₁₂.tickEnabled.trans hoff)).trans (obs₁₂.dbShown hoff)⟩

/-- Settles O57: where no tick is enabled nothing falls among the micro-steps, and the draws are the first fourteen. -/
theorem controllerStringQuery : Obligations.ControllerStringQuery := by
  refine ⟨coded_of_layout rfl, fun s hs => ⟨fun hoff => ?_, fun hready => ?_⟩⟩
  · have hwatch : Watching s := ⟨hs, fun he => absurd (hoff.symm.trans he) Bool.false_ne_true⟩
    obtain ⟨t, ls, a, d, hexec, hobs, -, -, -, -, hsampled⟩ := exec_bcState_observes hwatch
    obtain ⟨rfl, rfl, rfl⟩ := hsampled hoff
    rw [hexec, hobs.still hoff, State.idle_idle]
  · obtain ⟨t, ls, a, d, hexec, hobs, hlen, hdriven, hab, hdb, -⟩ := exec_bcState_observes (hready.watching hs)
    exact ⟨t.idle, ls, a, d, hexec, hobs.leaves, hlen, hobs.foregroundSteps, hdriven, hab, hdb⟩

end Sys2Proof.Machine

/-! ## BusController commands keep the bus held (60_exceptions.md R334)

The rules of the single commands say what each one leaves; here is the one fact that they have in common: a machine that
a BusController command leaves `Mutable` holds the bus as BC.TESTON left it. What the rules leave open is the level of
RAS, which a tick writes; `RasHigh` is kept by ticks, and by every micro-step that does not write RAS. -/

namespace Sys2Proof.Machine
open Sys2Proof.Claims

/-! ### Disciplined states -/

theorem Disciplined.quiet {s : State} (h : Disciplined s) : Quiet s :=
  quiet_of_noAckDrive h.inv.idleDrive h.inv.noContention

theorem Disciplined.tickReady {s : State} (h : Disciplined s) : TickReady s := fun he =>
  congrArg Line.dir (h.held (h.inv.refreshMutable he)).ras

theorem BusHeld.readableUndriven {s : State} (h : BusHeld s) : ReadableUndriven s :=
  ⟨fun hw => absurd (h.abWritable.symm.trans hw) (by simp), fun _ => h.dbMask⟩

/-- A held bus can run a cycle on any of the shared-control lines. -/
theorem Disciplined.cycleReady {s : State} (h : Disciplined s) (hm : s.mutable = true) {lines : List Signal}
    (hl : ∀ n ∈ lines, n ∈ sharedSignals) : CycleReady s lines :=
  have fit := (h.held hm).fit hl
  ⟨h.inv, hm, fit.granted, fit.noRead, fit.noIn, fit.outputs, h.tickReady⟩

/-- No read strobe is asserted, whether the bus is held or no shared line is driven. -/
theorem Disciplined.unread {s : State} (h : Disciplined s) : s.asserted .rd = false ∧ s.asserted .ioIn = false := by
  cases hm : s.mutable with
  | true =>
    have fit := (h.held hm).fit (lines := []) (by simp)
    exact ⟨fit.noRead, fit.noIn⟩
  | false =>
    have hin := (h.inv.aloof hm).unshared
    simp only [State.sharedOut, sharedSignals, List.any_cons, Bool.or_eq_false_iff] at hin
    obtain ⟨-, -, -, hrd, -, hio, -⟩ := hin
    simp [State.asserted, hrd, hio]

/-- A held bus stays so where the cells named are as they were. -/
theorem BusHeld.congr {s t : State} (h : BusHeld s) (hsig : t.signals = s.signals) (hm : t.mutable = s.mutable)
    (hg : t.busGranted = s.busGranted) (hmask : t.ab.mask = s.ab.mask) (hflag : t.ab.writable = s.ab.writable)
    (hdmask : t.db.mask = 0) (hdflag : t.db.writable = false) : BusHeld t where
  isMutable := hm.trans h.isMutable
  granted := hg.trans h.granted
  abMask := hmask.trans h.abMask
  abWritable := hflag.trans h.abWritable
  dbMask := hdmask
  dbReadable := hdflag
  resting := fun n hn => by rw [Resting, State.line, hsig]; exact h.resting n hn

/-- INT and WAIT are not among the lines held. -/
theorem BusHeld.setLine {s : State} (h : BusHeld s) {n : Signal} (hn : n ∉ sharedSignals) (ht : n ≠ .test)
    (l : Line) : BusHeld (s.setLine n l) where
  isMutable := h.isMutable
  granted := by simp [ht, h.granted]
  abMask := h.abMask
  abWritable := h.abWritable
  dbMask := h.dbMask
  dbReadable := h.dbReadable
  resting := fun k hk => by
    have hkn : k ≠ n := fun hkn => hn (hkn ▸ hk)
    rw [Resting, State.line_setLine_other l s hkn]
    exact h.resting k hk

/-! ### The level of RAS -/

/-- RAS's latch is at its inactive level. -/
abbrev RasHigh (s : State) : Prop := (s.line .ras).lvl = .high

theorem BusHeld.rasHigh {s : State} (h : BusHeld s) : RasHigh s := congrArg Line.lvl h.ras

/-- A tick leaves RAS high (44_interrupt_refresh.md R271). -/
theorem rasHigh_gapKeeps : GapKeeps RasHigh := fun _ _ h hg => (gap_ok hg).rasLevel.elim (·.trans h) id

/-- A command that does not write RAS's level leaves it high. -/
theorem exec_rasHigh {i : Instr} (hi : writesLevel i .ras = false) {s t : State} (h : exec i s = .next t)
    (hs : RasHigh s) : RasHigh t :=
  exec_keeps (P := RasHigh) (fun _ => Iff.rfl) rasHigh_gapKeeps
    (fun _ u hm _ hu => (apply_line_lvl hm u hi).trans hu) h hs

/-- A micro-step of a cycle that does not strobe RAS leaves RAS's line as it is. -/
theorem apply_line_ras {lines : List Signal} (hl : Signal.ras ∉ lines) {m : MicroStep}
    (hm : cycleStep lines m = true) (s : State) : (m.apply s).line .ras = s.line .ras := by
  cases m with
  | write n l =>
    have hn : n ∈ lines := by
      simp only [cycleStep, Bool.and_eq_true, List.contains_iff_mem] at hm
      exact hm.1
    have hne : Signal.ras ≠ n := fun h => hl (h ▸ hn)
    exact State.line_setLine_other _ s hne
  | setDir | driveOut => cases hm
  | _ => rfl

theorem CyclePick.keeps_rasHigh {lines : List Signal} (hl : Signal.ras ∉ lines) {p : Pick} (hp : CyclePick lines p) :
    PickKeeps RasHigh p := by
  intro s u k hu _ _
  have hline : (u.performed k false (p s).2).line .ras = u.line .ras := by
    rw [State.line, State.performed_signals]
    exact apply_line_ras hl (hp s) u
  exact (congrArg Line.lvl hline).trans hu

/-- A micro-step that writes no signal cell leaves RAS high. -/
theorem stepKeeps_rasHigh {m : MicroStep} (hm : ∀ s : State, (m.apply s).signals = s.signals) : StepKeeps RasHigh m :=
  fun s _ hs _ _ => (congrArg (fun g : Signals => g.ras.lvl) (hm s)).trans hs

theorem respond_rasHigh (v : Response) (s : State) : Keeps RasHigh id s (seq [respond v] s) :=
  Keeps.seq rasHigh_gapKeeps (List.forall_mem_singleton.2 fun _ => stepKeeps_rasHigh fun _ => rfl) s

theorem opening_rasHigh (s : State) : Keeps RasHigh id s (seq opening s) :=
  Keeps.seq rasHigh_gapKeeps (List.forall_mem_cons.2 ⟨fun _ => stepKeeps_rasHigh fun _ => rfl,
    List.forall_mem_singleton.2 fun _ => stepKeeps_rasHigh fun _ => rfl⟩) s

theorem sampleIoPort_rasHigh (s : State) : Keeps RasHigh Prod.snd s (sampleIoPort s) :=
  (Keeps.readStep rasHigh_gapKeeps (fun _ => stepKeeps_rasHigh fun _ => rfl) s).bind
    fun _ => Keeps.ok (proj := Prod.snd) id

section
variable {lines : List Signal} (hl : Signal.ras ∉ lines) {ps : List Pick} (hps : ∀ p ∈ ps, CyclePick lines p)
  (s : State)
include hl hps

theorem seq_rasHigh : Keeps RasHigh id s (seq ps s) :=
  Keeps.seq rasHigh_gapKeeps (fun p hp => (hps p hp).keeps_rasHigh hl) s

theorem seq_closing_rasHigh : Keeps RasHigh id s (seq (ps ++ [closing]) s) :=
  Keeps.seq rasHigh_gapKeeps (List.forall_mem_append.2 ⟨fun p hp => (hps p hp).keeps_rasHigh hl,
    List.forall_mem_singleton.2 fun _ => stepKeeps_rasHigh fun _ => rfl⟩) s

end

section
variable {c : CycleKind} (hc : c.Strobes) (hl : Signal.ras ∉ c.lines) {body : Pick}
  (hbody : CyclePick c.lines (cycleAddress body)) (s : State)
include hc hl hbody

/-- A port cycle of one strobe leaves RAS high (R222, R223, `IO_SHAPE`). -/
theorem CycleKind.readCycle_rasHigh : Keeps RasHigh Prod.snd s (c.readCycle body sampleIoPort s) :=
  (opening_rasHigh s).bind fun u =>
    (seq_rasHigh hl (List.forall_mem_cons.2 ⟨hbody, CycleKind.cyclePick_on hc⟩) u).bind fun v =>
    (sampleIoPort_rasHigh v).bind fun x =>
    (seq_closing_rasHigh hl (CycleKind.cyclePick_off hc) x.2).bind fun _ => Keeps.ok (proj := Prod.snd) id

theorem CycleKind.writeCycle_rasHigh (hread : strobesRead c.lines = false) (d : Byte) :
    Keeps RasHigh id s (c.writeCycle body d deviceTakesByte s) := by
  have hon : ∀ p ∈ c.writeOn body d, CyclePick c.lines p :=
    List.forall_mem_append.2 ⟨by simp [dataPicks, cyclePick_dbSetwBody hread, hbody], CycleKind.cyclePick_on hc⟩
  have hoff : ∀ p ∈ c.off ++ [dbSetrBody], CyclePick c.lines p :=
    List.forall_mem_append.2 ⟨CycleKind.cyclePick_off hc, List.forall_mem_singleton.2 (cyclePick_dbSetrBody hread)⟩
  exact (opening_rasHigh s).bind fun u => (seq_rasHigh hl hon u).bind fun v =>
    (seq_closing_rasHigh hl hoff (deviceTakesByte v)).after id

end

theorem exec_bcRdio_rasHigh {p : Byte} {s t : State} (h : exec (.bcRdio p) s = .next t) (hm : s.mutable = true)
    (hshape : s.params.ioShape = .strobeOnly) (hs : RasHigh s) : RasHigh t := by
  unfold exec execBcRdio at h
  obtain ⟨u, hu, rfl⟩ := command_next_iff.1 h
  rw [rdioBody_eq_readCycle (s := s.idle) hm, State.idle_params, hshape] at hu
  exact ((CycleKind.readCycle_rasHigh (c := portReads .strobeOnly) (.inr (.inr (.inl rfl))) (by decide)
    (cyclePick_ioAddress p) s.idle).bind fun x => respond_rasHigh _ x.2) hs u hu

theorem exec_bcWrio_rasHigh {p d : Byte} {s t : State} (h : exec (.bcWrio p d) s = .next t) (hm : s.mutable = true)
    (hshape : s.params.ioShape = .strobeOnly) (hs : RasHigh s) : RasHigh t := by
  obtain ⟨u, hu, rfl⟩ := command_next_iff.1 h
  rw [wrioBody_eq_writeCycle (s := s.idle) hm, State.idle_params, hshape] at hu
  exact CycleKind.writeCycle_rasHigh (c := portWrites .strobeOnly) (.inr (.inr (.inr rfl))) (by decide)
    (cyclePick_ioAddress p) s.idle rfl d hs u hu

/-! ### What a command leaves of the bus -/

/-- The command completes, and where it leaves BMC `Mutable` the bus is held. -/
def KeepsHold (i : Instr) (s : State) : Prop := ∃ t, exec i s = .next t ∧ (t.mutable = true → BusHeld t)

section
variable {i : Instr} {s : State}

theorem KeepsHold.of_immutable {t : State} (h : exec i s = .next t) (ht : t.mutable = false) : KeepsHold i s :=
  ⟨t, h, fun hm => absurd (ht.symm.trans hm) Bool.false_ne_true⟩

theorem KeepsHold.of_disciplined {t : State} (h : exec i s = .next t) (ht : Disciplined t) : KeepsHold i s :=
  ⟨t, h, ht.held⟩

/-- A command that leaves the cells as they are but for what ticks write, and so RAS high. -/
theorem KeepsHold.of_leaves {t e : State} (h : exec i s = .next t) (hl : Leaves s e t)
    (he : s.mutable = true → BusHeld e) (hm : e.mutable = s.mutable) (hras : s.mutable = true → RasHigh t) : KeepsHold i s := by
  obtain ⟨hcells, -⟩ := hl
  have hmut : t.mutable = s.mutable := (congrArg State.mutable hcells).trans hm
  refine ⟨t, h, fun ht => ?_⟩
  have hsm := hmut.symm.trans ht
  exact (he hsm).of_cells (congrArg State.bare hcells) (hras hsm)

variable (hs : Disciplined s)
include hs

/-- A command that leaves the cells as they are. -/
theorem KeepsHold.of_bare {t : State} (h : exec i s = .next t) (ht : t.bare = s.bare) : KeepsHold i s := by
  have hmut : t.mutable = s.mutable := by have e := congrArg State.mutable ht; exact e
  exact ⟨t, h, fun hm => busHeld_ofCells.of_bare_eq ht (hs.held (hmut.symm.trans hm))⟩

theorem KeepsHold.of_answers {v : State → Response} (h : Answers i v) : KeepsHold i s :=
  .of_bare hs (h s hs.quiet) rfl

end

/-! ### The commands -/

section
variable {s : State} (hs : Disciplined s)
include hs

theorem bcTeston_keepsHold : KeepsHold .bcTeston s := by
  cases hm : s.mutable with
  | true => exact .of_bare hs ((redundantMastership s hs.quiet).1 hm) rfl
  | false =>
    refine ⟨_, takeBus.2 s hs.inv hm, fun _ => ⟨rfl, rfl, rfl, rfl, rfl, rfl, fun n hn => ?_⟩⟩
    simp only [sharedSignals, List.mem_cons, List.not_mem_nil, or_false] at hn
    rcases hn with rfl | rfl | rfl | rfl | rfl | rfl | rfl <;> rfl

theorem bcTestoff_keepsHold : KeepsHold .bcTestoff s := by
  cases hm : s.mutable with
  | true =>
    obtain ⟨t, -, -, -, ht, -, ⟨hcells, -⟩, -⟩ :=
      giveBusBack.2 s hs.inv hm hs.tickReady (hs.held hm).readableUndriven
    exact .of_immutable ht (congrArg State.mutable hcells)
  | false => exact .of_bare hs ((redundantMastership s hs.quiet).2 hm) rfl

theorem bcInit_keepsHold (rc : Bool) : KeepsHold (.bcInit rc) s := by
  obtain ⟨-, hmut, himm⟩ := initialise rc s
  cases hm : s.mutable with
  | true => exact .of_bare hs (hmut hs.quiet hm) rfl
  | false => exact .of_immutable (himm hs.inv hm) hm

theorem bcShutdown_keepsHold : KeepsHold .bcShutdown s := by
  obtain ⟨himm, hmut⟩ := shutdown.2 s hs.inv
  cases hm : s.mutable with
  | true =>
    obtain ⟨t, -, -, -, ht, -, -, ⟨hcells, -⟩⟩ := hmut hm hs.tickReady (hs.held hm).readableUndriven
    exact .of_immutable ht (congrArg State.mutable hcells)
  | false => exact .of_immutable (himm hm) hm

/-- A command that only writes the cell of a line that is neither shared nor TEST. -/
theorem KeepsHold.of_setLine {i : Instr} {t : State} {n : Signal} {l : Line} (h : exec i s = .next t)
    (hn : n ∉ sharedSignals) (ht : n ≠ .test) (hcells : t.bare = (s.setLine n l).bare) : KeepsHold i s := by
  have hmut : t.mutable = s.mutable := by have e := congrArg State.mutable hcells; exact e
  exact ⟨t, h, fun hm => busHeld_ofCells.of_bare_eq hcells ((hs.held (hmut.symm.trans hm)).setLine hn ht l)⟩

theorem bcWaiton_keepsHold : KeepsHold .bcWaiton s := by
  obtain ⟨-, -, hwait⟩ := waitCommands
  obtain ⟨hgated, hredundant, hdrives, -, -⟩ := hwait s hs.quiet
  by_cases hg : s.params.gateIntWait = true ∧ s.mutable = false
  · exact .of_bare hs (hgated hg) rfl
  by_cases hw : s.signals.wait = ⟨.output, .low⟩
  · exact .of_bare hs (hredundant hg hw) rfl
  · exact .of_setLine hs (n := .wait) (l := ⟨.output, .low⟩) (hdrives hg hw) (by decide) (by decide) rfl

theorem bcWaitoff_keepsHold : KeepsHold .bcWaitoff s := by
  obtain ⟨-, -, hwait⟩ := waitCommands
  obtain ⟨-, -, -, hredundant, hreleases⟩ := hwait s hs.quiet
  by_cases hw : s.signals.wait = ⟨.output, .low⟩
  · exact .of_setLine hs (n := .wait) (l := ⟨.input, .low⟩) (hreleases hw) (by decide) (by decide) rfl
  · exact .of_bare hs (hredundant hw) rfl

theorem bcRefon_keepsHold : KeepsHold .bcRefon s := by
  obtain ⟨-, -, harming⟩ := refreshArming
  obtain ⟨himm, hnotimer, hredundant, harms, -, -⟩ := harming s hs.quiet
  cases hm : s.mutable with
  | false => exact .of_bare hs (himm hm) rfl
  | true =>
    cases hc : s.refreshConfigured with
    | false => exact .of_bare hs (hnotimer hm hc) rfl
    | true =>
      cases he : s.refreshEnabled with
      | true => exact .of_bare hs (hredundant hm hc he) rfl
      | false =>
        have held := hs.held hm
        exact ⟨_, harms hm hc he, fun _ => held.congr rfl rfl rfl rfl rfl held.dbMask held.dbReadable⟩

theorem bcRefoff_keepsHold : KeepsHold .bcRefoff s := by
  obtain ⟨-, -, harming⟩ := refreshArming
  obtain ⟨-, -, -, -, hredundant, hdisarms⟩ := harming s hs.quiet
  cases he : s.refreshEnabled with
  | false => exact .of_bare hs (hredundant he) rfl
  | true =>
    have held := hs.held (hs.inv.refreshMutable he)
    exact ⟨_, hdisarms he, fun _ => held.congr rfl rfl rfl rfl rfl held.dbMask held.dbReadable⟩

theorem bcState_keepsHold : KeepsHold .bcState s := by
  obtain ⟨-, hstate⟩ := controllerStringQuery
  obtain ⟨-, hready⟩ := hstate s hs.quiet
  obtain ⟨t, -, -, -, ht, hleaves, -⟩ := hready hs.tickReady
  exact .of_leaves (e := s.idle) ht hleaves
    (fun hm => busHeld_ofCells.of_bare_eq (State.bare_idle s) (hs.held hm)) rfl
    fun hm => exec_rasHigh rfl ht (hs.held hm).rasHigh

theorem bcInt_keepsHold (code : Byte) (tmo : BitVec 16) : KeepsHold (.bcInt code tmo) s := by
  obtain ⟨-, hgated, hruns⟩ := interruptHandshake code tmo s
  by_cases hg : s.params.gateIntWait = true ∧ s.mutable = false
  · obtain ⟨hgate, hm⟩ := hg
    exact .of_bare hs (hgated hs.inv hgate hm) rfl
  obtain ⟨hrd, hin⟩ := hs.unread
  obtain ⟨t, ht, hways⟩ := hruns hs.inv (by simpa using hg) hrd hin hs.tickReady
  have ras (hm : s.mutable = true) : RasHigh t := exec_rasHigh rfl ht (hs.held hm).rasHigh
  have released (hm : s.mutable = true) : BusHeld (s.setLine .int ⟨.input, .low⟩) :=
    (hs.held hm).setLine (by decide) (by decide) _
  rcases hways with ⟨-, -, -, -, hleaves⟩ | ⟨-, hleaves⟩
  · exact .of_leaves ht hleaves (fun hm => (released hm).congr rfl rfl rfl rfl rfl rfl rfl) rfl ras
  · exact .of_leaves ht hleaves (fun hm => (released hm).congr rfl rfl rfl rfl rfl
      (hs.held hm).dbMask (hs.held hm).dbReadable) rfl ras

end

/-! ### The cycles -/

theorem Signals.set_get_self {c : Signals} {n : Signal} {l : Line} (h : c.get n = l) : c.set n l = c := by
  subst h
  cases n <;> rfl

/-- The strobes of a cycle leave resting lines as they are. -/
theorem BusHeld.atRest_eq {s : State} (h : BusHeld s) {c : CycleKind} (hc : c.Strobes) :
    c.atRest s.signals = s.signals := by
  have line (n : Signal) (hn : n ∈ sharedSignals) : s.signals.get n = ⟨.output, inactiveLevel n⟩ := h.resting n hn
  have hstrobe : s.signals.get c.strobe = ⟨.output, .high⟩ := by
    rcases hc with hn | hn | hn | hn <;> rw [hn] <;> exact line _ (by decide)
  have hras : s.signals.get .ras = ⟨.output, .high⟩ := line .ras (by decide)
  have hcas : s.signals.get .cas = ⟨.output, .high⟩ := line .cas (by decide)
  have hmux : s.signals.get .mux = ⟨.output, .low⟩ := line .mux (by decide)
  unfold CycleKind.atRest strobed
  split
  · rw [Signals.set_get_self hcas, Signals.set_get_self hstrobe, Signals.set_get_self hras, Signals.set_get_self hmux]
  · exact Signals.set_get_self hstrobe

theorem beyondBuffer_bcWrmemn_iff {a : Addr} {len off : BitVec 16} {s : State} :
    beyondBuffer (.bcWrmemn a len off) s = true ↔
      ∃ buf, s.buffer = some buf ∧ len ≠ 0 ∧ buf.length < off.toNat + len.toNat := by
  have hlen : len.toNat = 0 ↔ len = 0 := not_iff_not.1 ⟨mt (congrArg BitVec.toNat), toNat_ne_zero⟩
  unfold beyondBuffer
  cases s.buffer <;> simp [hlen]

section
variable {s : State} (hs : Disciplined s)
include hs

theorem bcRdmem_keepsHold (a : Addr) : KeepsHold (.bcRdmem a) s := by
  cases hm : s.mutable with
  | true =>
    obtain ⟨d, t, ht, held, -, -⟩ := exec_bcRdmem_of_busHeld (hs.held hm) a
    exact ⟨t, ht, fun _ => held⟩
  | false =>
    obtain ⟨hrejects, -⟩ := cyclesAreRejectedWhileImmutable s hs.inv hm
    exact .of_bare hs (hrejects a) rfl

theorem bcWrmem_keepsHold (a : Addr) (d : Byte) : KeepsHold (.bcWrmem a d) s := by
  cases hm : s.mutable with
  | true =>
    obtain ⟨t, ht, held, -⟩ := exec_bcWrmem_of_busHeld (hs.held hm) a d
    exact ⟨t, ht, fun _ => held⟩
  | false =>
    obtain ⟨-, hrejects, -⟩ := cyclesAreRejectedWhileImmutable s hs.inv hm
    exact .of_bare hs (hrejects a d) rfl

theorem bcRdio_keepsHold (p : Byte) : KeepsHold (.bcRdio p) s := by
  cases hm : s.mutable with
  | true =>
    have held := hs.held hm
    have hlines : ∀ n ∈ ioLines s.params .ioIn, n ∈ sharedSignals := by
      unfold ioLines
      split <;> decide
    obtain ⟨t, -, -, ht, -, hleaves, hras, -⟩ := (portReadCycle p s).2 (hs.cycleReady hm hlines) held.dbMask
    refine .of_leaves ht hleaves (fun _ => ?_) rfl fun _ => ?_
    · refine held.congr ?_ rfl rfl rfl rfl held.dbMask held.dbReadable
      split
      · exact held.atRest_eq (c := portReads .full) (.inr (.inr (.inl rfl)))
      · exact held.atRest_eq (c := portReads .strobeOnly) (.inr (.inr (.inl rfl)))
    · cases hshape : s.params.ioShape with
      | full => exact congrArg Line.lvl (hras hshape)
      | strobeOnly => exact exec_bcRdio_rasHigh ht hm hshape held.rasHigh
  | false =>
    obtain ⟨-, -, hrejects, -⟩ := cyclesAreRejectedWhileImmutable s hs.inv hm
    exact .of_bare hs (hrejects p) rfl

theorem bcWrio_keepsHold (p d : Byte) : KeepsHold (.bcWrio p d) s := by
  cases hm : s.mutable with
  | true =>
    have held := hs.held hm
    have hlines : ∀ n ∈ ioLines s.params .ioOut, n ∈ sharedSignals := by
      unfold ioLines
      split <;> decide
    obtain ⟨t, -, -, -, ht, -, hleaves, hras, -⟩ := (portWriteCycle p d s).2 (hs.cycleReady hm hlines)
    refine .of_leaves ht hleaves (fun _ => held.congr ?_ rfl rfl rfl rfl rfl rfl) rfl fun _ => ?_
    · split
      · exact held.atRest_eq (c := portWrites .full) (.inr (.inr (.inr rfl)))
      · exact held.atRest_eq (c := portWrites .strobeOnly) (.inr (.inr (.inr rfl)))
    · cases hshape : s.params.ioShape with
      | full => exact congrArg Line.lvl (hras hshape)
      | strobeOnly => exact exec_bcWrio_rasHigh ht hm hshape held.rasHigh
  | false =>
    obtain ⟨-, -, -, hrejects, -⟩ := cyclesAreRejectedWhileImmutable s hs.inv hm
    exact .of_bare hs (hrejects p d) rfl

/-! ### The bulk commands -/

/-- BC.RDMEMN without a cycle: a log and a response, with the ticks of a held bus between them (R230, R235). -/
theorem rejectsRead_keepsHold {i : Instr} {k : Nat} {l : LogKind}
    (hi : exec i s = command (seq [fun _ => (k, .log l), respond .null]) s) : KeepsHold i s := by
  obtain ⟨t, ht, hleaves, -⟩ := command_rejectsRead hs.inv hs.tickReady k l
  have log : PickKeeps RasHigh fun _ => (k, .log l) := fun _ => stepKeeps_rasHigh fun _ => rfl
  have answers : PickKeeps RasHigh (respond .null) := fun _ => stepKeeps_rasHigh fun _ => rfl
  refine .of_leaves (hi.trans ht) hleaves hs.held rfl fun hm => ?_
  obtain ⟨u, hu, rfl⟩ := command_next_iff.1 ht
  exact Keeps.seq rasHigh_gapKeeps (by simp [log, answers]) s.idle (hs.held hm).rasHigh u hu

theorem bcRdmemn_keepsHold (a : Addr) (len : BitVec 16) : KeepsHold (.bcRdmemn a len) s := by
  by_cases hlen : len = 0
  · subst hlen
    exact rejectsRead_keepsHold hs (exec_bcRdmemn_of_zero a s)
  cases hdraw : s.drawnBool 0 with
  | true => exact rejectsRead_keepsHold hs (exec_bcRdmemn_of_noAlloc hlen hdraw)
  | false =>
    cases hm : s.mutable with
    | true =>
      obtain ⟨t, -, ht, disciplined, -⟩ := (bulkRead a len s).2 hs hm hlen hdraw
      exact .of_disciplined ht disciplined
    | false =>
      obtain ⟨-, -, -, -, hrejects, -⟩ := cyclesAreRejectedWhileImmutable s hs.inv hm
      exact .of_bare hs (hrejects a len hlen hdraw) rfl

theorem bcWrmemn_keepsHold (a : Addr) (len off : BitVec 16) (hb : beyondBuffer (.bcWrmemn a len off) s = false) :
    KeepsHold (.bcWrmemn a len off) s := by
  obtain ⟨habsent, hempty, -⟩ := bulkContractChecks s hs.quiet
  cases hbuf : s.buffer with
  | none => exact .of_bare hs (habsent a len off hbuf) rfl
  | some buf =>
    by_cases hlen : len = 0
    · subst hlen
      exact .of_bare hs (hempty a off buf hbuf) rfl
    have hfits : off.toNat + len.toNat ≤ buf.length := by
      by_contra hbeyond
      simp [beyondBuffer_bcWrmemn_iff.2 ⟨buf, hbuf, hlen, Nat.lt_of_not_le hbeyond⟩] at hb
    cases hm : s.mutable with
    | true =>
      obtain ⟨t, ht, disciplined, -⟩ := (bulkWrite a len off buf s).2 hs hm hbuf hlen hfits
      exact .of_disciplined ht disciplined
    | false =>
      obtain ⟨-, -, -, -, -, hrejects, -⟩ := cyclesAreRejectedWhileImmutable s hs.inv hm
      exact .of_bare hs (hrejects a len off buf hlen hbuf hfits) rfl

theorem bcCopy_keepsHold (src dst : Addr) (len : BitVec 16) : KeepsHold (.bcCopy src dst len) s := by
  obtain ⟨-, -, -, hempty, -⟩ := bulkContractChecks s hs.quiet
  by_cases hlen : len = 0
  · subst hlen
    exact .of_bare hs (hempty src dst) rfl
  cases hm : s.mutable with
  | true =>
    obtain ⟨t, -, ht, disciplined, -⟩ := (copyCycles src dst len s).2 hs hm hlen
    exact .of_disciplined ht disciplined
  | false =>
    obtain ⟨-, -, -, -, -, -, -, hrejects⟩ := cyclesAreRejectedWhileImmutable s hs.inv hm
    exact .of_bare hs (hrejects src dst len hlen) rfl

theorem bcFill_keepsHold (a : Addr) (len : BitVec 16) (v : Byte) : KeepsHold (.bcFill a len v) s := by
  obtain ⟨-, -, -, -, hempty⟩ := bulkContractChecks s hs.quiet
  by_cases hlen : len = 0
  · subst hlen
    exact .of_bare hs (hempty a v) rfl
  cases hm : s.mutable with
  | true =>
    obtain ⟨t, ht, disciplined, -⟩ := (bulkFill a len v s).2 hs hm hlen
    exact .of_disciplined ht disciplined
  | false =>
    obtain ⟨-, -, -, -, -, -, hrejects, -⟩ := cyclesAreRejectedWhileImmutable s hs.inv hm
    exact .of_bare hs (hrejects a len v hlen) rfl

/-! ### Every BusController command -/

theorem controller_keepsHold {i : Instr} (hi : isControllerCommand i = true) (hb : beyondBuffer i s = false) :
    KeepsHold i s := by
  cases i with
  | bcTeston => exact bcTeston_keepsHold hs
  | bcTestoff => exact bcTestoff_keepsHold hs
  | bcWaiton => exact bcWaiton_keepsHold hs
  | bcWaitoff => exact bcWaitoff_keepsHold hs
  | bcRdmem a => exact bcRdmem_keepsHold hs a
  | bcWrmem a d => exact bcWrmem_keepsHold hs a d
  | bcRdio p => exact bcRdio_keepsHold hs p
  | bcWrio p d => exact bcWrio_keepsHold hs p d
  | bcRdmemn a len => exact bcRdmemn_keepsHold hs a len
  | bcWrmemn a len off => exact bcWrmemn_keepsHold hs a len off hb
  | bcCopy src dst len => exact bcCopy_keepsHold hs src dst len
  | bcFill a len v => exact bcFill_keepsHold hs a len v
  | bcInt code tmo => exact bcInt_keepsHold hs code tmo
  | bcRefon => exact bcRefon_keepsHold hs
  | bcRefoff => exact bcRefoff_keepsHold hs
  | bcState => exact bcState_keepsHold hs
  | bcInit rc => exact bcInit_keepsHold hs rc
  | bcShutdown => exact bcShutdown_keepsHold hs
  | bcIsmut | bcIsref | bcRow | ver | verstr | isRom | isUnused | isMmio | isKbd | isVideo | isSysmem | isLoexp
  | isHiexp => exact .of_answers hs (answers_of_pick (fun _ => rfl) fun _ => rfl)
  | _ => cases hi

/-- A buffer that is too short ends the run before any cycle (R231). -/
theorem exec_of_beyondBuffer {i : Instr} (hb : beyondBuffer i s = true) :
    exec i s = .fault (.buffer { s with fault := some .buffer }) := by
  obtain ⟨-, -, hshort, -⟩ := bulkContractChecks s hs.quiet
  cases i with
  | bcWrmemn a len off =>
    obtain ⟨buf, hbuf, hlen, hbeyond⟩ := beyondBuffer_bcWrmemn_iff.1 hb
    rw [hshort a len off buf hbuf hlen hbeyond, State.idle_eq_self hs.inv.idlePosition hs.inv.idleDrive]
  | _ => cases hb

end

/-- Settles O17: the rules of the commands say that each completes and what it leaves of the bus (`KeepsHold`); that it
keeps the invariant, and with it that no hazard stands, is `exec_keeps_inv`. -/
theorem controllerKeepsDiscipline : Obligations.ControllerKeepsDiscipline := by
  refine fun i s hi hs => ⟨fun hb => ?_, exec_of_beyondBuffer hs⟩
  obtain ⟨t, ht, held⟩ := controller_keepsHold hs hi hb
  exact ⟨t, ht, exec_keeps_inv hs.inv ht, held⟩

end Sys2Proof.Machine

/-! ## What a fault records (60_exceptions.md R332, R333, R334)

Between two micro-steps no hazard stands. So a fault that keeps a micro-step from being performed holds a state without
one, and only the safety check after a micro-step raises `FLT_CONTENTION`. -/

namespace Sys2Proof.Machine
open Sys2Proof.Claims

/-- The fault's state records the fault's kind, and is a hazard state exactly for `FLT_CONTENTION`. -/
def RecordsKind (f : Fault) : Prop :=
  (finalState f).fault = some (kindOf f) ∧ ((finalState f).contention = true ↔ kindOf f = .contention)

theorem recordsKind_hazard {s : State} (hc : s.contention = true) :
    RecordsKind (faultOf .contention { s with fault := some .contention }) :=
  ⟨rfl, iff_of_true hc rfl⟩

theorem recordsKind_of_no_hazard {k : FaultKind} (hk : k ≠ .contention) {s : State} (hc : s.contention = false) :
    RecordsKind (faultOf k { s with fault := some k }) := by
  unfold RecordsKind
  rw [finalState_faultOf, kindOf_faultOf]
  exact ⟨rfl, iff_of_false (Bool.eq_false_iff.1 hc) hk⟩

theorem prevented_ne_contention {m : MicroStep} {s : State} {k : FaultKind} (h : m.prevented s = some k) :
    k ≠ .contention := by
  rintro rfl
  cases m with
  | setDir | write => simp [MicroStep.prevented] at h
  | _ => cases h

/-! ### Ticks -/

/-- A tick that faults met RAS an input (44_interrupt_refresh.md R271). -/
theorem tick_recordsKind {s : State} {f : Fault} (hc : s.contention = false) (h : tick s = .error f) :
    RecordsKind f := by
  obtain ⟨himmutable, hout, hin⟩ := refreshTick s hc
  cases hm : s.mutable with
  | false => cases (himmutable hm).symm.trans h
  | true =>
    cases hr : s.signals.ras.dir with
    | output => cases (hout hm hr).symm.trans h
    | input =>
      cases (hin hm hr).symm.trans h
      exact ⟨rfl, iff_of_false (Bool.eq_false_iff.1 ((contention_congr rfl rfl rfl rfl rfl).trans hc)) nofun⟩

theorem runTicks_recordsKind {n : Nat} {s : State} {f : Fault} (hc : s.contention = false)
    (h : runTicks n s = .error f) : RecordsKind f := by
  induction n generalizing s with
  | zero => cases h
  | succ n ih =>
    unfold runTicks at h
    cases ht : tick s with
    | error e =>
      rw [ht] at h
      cases h
      exact tick_recordsKind hc ht
    | ok t =>
      obtain ⟨-, -, htc⟩ := tick_ok ht
      rw [ht, ok_bind] at h
      exact ih htc h

theorem boundary_recordsKind {s : State} {f : Fault} (hc : s.contention = false) (h : boundary s = .error f) :
    RecordsKind f := by
  unfold boundary at h
  split at h
  · exact runTicks_recordsKind (s := s.skip 1) hc h
  · cases h

theorem gap_recordsKind {s : State} {f : Fault} (hc : s.contention = false) (h : gap s = .error f) :
    RecordsKind f := by
  unfold gap at h
  split at h
  · cases h
  · exact boundary_recordsKind hc h

/-! ### Commands -/

/-- No hazard stands between two moves of a command. -/
theorem Move.noContention {s t : State} (m : Move s t) (hs : s.contention = false) : t.contention = false := by
  cases m with
  | gap h => exact (gap_ok h).contention.trans hs
  | act _ _ _ _ hc => exact hc
  | draw | memTaken | ioTaken => exact hs

theorem Fails.recordsKind {s : State} {f : Fault} (h : Fails s f) (hs : s.contention = false) : RecordsKind f := by
  cases h with
  | gap h => exact gap_recordsKind hs h
  | prevented h => exact recordsKind_of_no_hazard (prevented_ne_contention h) hs
  | hazard _ _ _ _ hc => exact recordsKind_hazard hc
  | illegal => exact recordsKind_of_no_hazard (k := .illegal) nofun hs
  | buffer => exact recordsKind_of_no_hazard (k := .buffer) nofun hs

theorem exec_recordsKind {i : Instr} {s : State} {f : Fault} (hs : Quiet s) (h : exec i s = .fault f) :
    RecordsKind f := by
  have runs := exec_runs i s
  rw [h] at runs
  obtain ⟨u, path, fails⟩ := runs
  exact fails.recordsKind (path.keeps (P := fun v => v.contention = false) (fun _ _ hv m => m.noContention hv) hs)

/-- What a step that faults is: a tick that faulted, or a delivery that does not decode or whose command faulted. -/
theorem step_fault_cases {s : State} {f : Fault} (hf : s.fault = none) (h : step s = .fault f) :
    boundary s = .error f ∨ ∃ u d, boundary s = .ok u ∧
      (f = faultOf .illegal { u.accept d with fault := some .illegal } ∨ ∃ i, exec i (u.accept d) = .fault f) := by
  cases hb : boundary s with
  | error e =>
    simp only [step, hf, hb] at h
    cases h
    exact .inl rfl
  | ok u =>
    cases hp : u.pending with
    | nil =>
      simp only [step, hf, hb, hp] at h
      cases h
    | cons d ds =>
      refine .inr ⟨u, d, rfl, ?_⟩
      cases hd : d.decoded with
      | error e =>
        rw [step_of_rejected hf hb hp hd] at h
        cases h
        exact .inl rfl
      | ok i => exact .inr ⟨i, (step_of_decoded hf hb hp hd).symm.trans h⟩

/-- Settles O10: no hazard stands at a boundary, when a delivery is accepted, or between two moves of a command. -/
theorem faultsRecordTheirKind : Obligations.FaultsRecordTheirKind := by
  intro s f hs h
  rcases step_fault_cases hs.noFault h with hb | ⟨u, d, hb, rfl | ⟨i, hi⟩⟩
  · exact boundary_recordsKind hs.noContention hb
  all_goals have hu : Inv (u.accept d) := ((boundary_ok hb).inv hs).accept d
  · exact recordsKind_of_no_hazard (k := .illegal) nofun hu.noContention
  · exact exec_recordsKind (quiet_of_noAckDrive hu.idleDrive hu.noContention) hi

end Sys2Proof.Machine

/-! ## Runs of BusController commands from reset (60_exceptions.md R334, 92_eei_decisions.md D8) -/

namespace Sys2Proof.Machine
open Sys2Proof.Claims

/-! ### Disciplined states between commands -/

theorem Disciplined.ticks {s t : State} (h : Disciplined s) (g : TicksOnly s t) : Disciplined t :=
  ⟨g.inv h.inv, fun hm => (h.held (g.mutable.symm.trans hm)).ticks g⟩

theorem Disciplined.accept {s : State} (d : Delivery) (h : Disciplined s) : Disciplined (s.accept d) :=
  ⟨h.inv.accept d, fun hm =>
    have held := h.held hm
    held.congr rfl rfl rfl rfl rfl held.dbMask held.dbReadable⟩

/-- With the bus properly held no tick faults. -/
theorem Disciplined.boundary_ok {s : State} (h : Disciplined s) : ∃ u, boundary s = .ok u ∧ TicksOnly s u := by
  have ready (he : s.tickEnabled = true) : s.mutable = true ∧ s.signals.ras.dir = .output := by
    have hen : s.refreshEnabled = true := by
      simp only [State.tickEnabled, Bool.and_eq_true] at he
      exact he.1.1
    exact ⟨h.inv.refreshMutable hen, h.tickReady hen⟩
  obtain ⟨u, hu⟩ := boundary_succeeds h.inv.noContention ready
  exact ⟨u, hu, Machine.boundary_ok hu⟩

/-- Whatever the parameters and the environment, reset leaves no bus to hold. -/
theorem disciplined_reset (p : Params) (xs : List Nat) (ds : List Delivery) :
    Disciplined { State.reset with params := p, inputs := xs, pending := ds } := by
  obtain ⟨h1, h2, h3, h4, h5, h6, h7, h8, h9, h10, h11, h12⟩ := resetMeetsInv p
  exact ⟨⟨h1, h2, h3, h4, h5, h6, h7, h8, h9, h10, h11, h12⟩, fun hm => absurd hm Bool.false_ne_true⟩

/-! ### One step, and a run -/

/-- The outcome is a next state with `P` or a fault with `Q`, and no refusal. -/
def EndsIn {σ φ ρ : Type} (P : σ → Prop) (Q : φ → Prop) : Host.Outcome σ φ ρ → Prop
  | .next t => P t
  | .fault f => Q f
  | .refused _ => False

/-- What each step of a machine keeps, a run keeps. -/
theorem run_endsIn {M : Host.Core} {P : M.State → Prop} {Q : M.Fault → Prop}
    (hstep : ∀ s, P s → EndsIn P Q (M.step s)) (k : Nat) {s : M.State} (hs : P s) : EndsIn P Q (M.run k s) := by
  induction k generalizing s with
  | zero => exact hs
  | succ k ih =>
    have h := hstep s hs
    unfold Host.Core.run
    cases ho : M.step s with
    | next t =>
      rw [ho] at h
      exact ih h
    | fault | refused =>
      rw [ho] at h
      exact h

/-- The bus is properly held, and only BusController commands are still to come. -/
structure Controlled (s : State) : Prop where
  disciplined : Disciplined s
  pending : ∀ d ∈ s.pending, FromController d

/-- The outcome is a `Controlled` state or `FLT_BUFFER`. -/
abbrev EndsControlled : Host.Outcome State Fault Refusal → Prop := EndsIn Controlled (kindOf · = .buffer)

theorem exec_endsControlled {i : Instr} (hi : isControllerCommand i = true) {s : State} (h : Controlled s) :
    EndsControlled (exec i s) := by
  obtain ⟨completes, fails⟩ := controllerKeepsDiscipline i s hi h.disciplined
  cases hb : beyondBuffer i s with
  | true =>
    rw [fails hb]
    rfl
  | false =>
    obtain ⟨t, ht, disciplined⟩ := completes hb
    rw [ht]
    exact ⟨disciplined, by rw [exec_pending ht]; exact h.pending⟩

theorem step_endsControlled {s : State} (h : Controlled s) : EndsControlled (step s) := by
  obtain ⟨u, hu, ticks⟩ := h.disciplined.boundary_ok
  have hnone := h.disciplined.inv.noFault
  have disciplined := h.disciplined.ticks ticks
  cases hp : s.pending with
  | nil =>
    rw [step_of_noPending hnone hp hu]
    exact ⟨disciplined, by rw [ticks.pending]; exact h.pending⟩
  | cons d ds =>
    have hup : u.pending = d :: ds := ticks.pending.trans hp
    obtain ⟨hd, hds⟩ := List.forall_mem_cons.1 (hp ▸ h.pending)
    obtain ⟨i, hdec, hi⟩ := hd
    rw [step_of_decoded hnone hu hup hdec]
    refine exec_endsControlled hi ⟨disciplined.accept d, ?_⟩
    rw [accept_eq_of_pending hup]
    exact hds

/-- Settles O18: reset leaves the machine `Controlled`, and each step keeps it so or ends in `FLT_BUFFER`. -/
theorem controllerSequencesAreSafe : Obligations.ControllerSequencesAreSafe := by
  intro p xs ds k hds
  have h := run_endsIn (M := Sys2Proof.core) (fun _ => step_endsControlled) k
    (Controlled.mk (disciplined_reset p xs ds) hds)
  split
  next t ht => rw [ht] at h; exact h.disciplined
  next f hf => rw [hf] at h; exact h
  next r hr => rw [hr] at h; exact h

end Sys2Proof.Machine

/-! ## Reads with the data bus driven (70_reset_and_hazards.md R372)

Up to its read strobe such a cycle is one that reads nothing, so the facts about the inside of a critical section hold
there; the strobe then meets the driven data bus, and R334 (b) ends the run. -/

namespace Sys2Proof.Machine
open Sys2Proof.Claims

/-! ### Ends in `FLT_CONTENTION` -/

/-- The computation ends the run with `FLT_CONTENTION`, the foreground having performed `ms`. -/
def EndsInContention {α : Type} (ms : List MicroStep) (r : Except Fault α) : Prop :=
  ∃ u : State, r = .error (.contention u) ∧ u.fault = some .contention ∧ u.foregroundSteps = ms

theorem EndsInContention.bind {α β : Type} {ms : List MicroStep} {x : Except Fault α} (h : EndsInContention ms x)
    (f : α → Except Fault β) : EndsInContention ms (x >>= f) := by
  obtain ⟨u, rfl, hu⟩ := h
  exact ⟨u, rfl, hu⟩

theorem EndsInContention.command {ms : List MicroStep} {body : State → Except Fault State} {s : State}
    (h : EndsInContention ms (body s.idle)) :
    ∃ u, command body s = .fault (.contention u) ∧ u.fault = some .contention ∧ u.foregroundSteps = ms := by
  obtain ⟨u, hu, hend⟩ := h
  exact ⟨u, command_of_error hu, hend⟩

theorem endsInContention_perform {k : Nat} {ack : Bool} {m : MicroStep} {s : State} (hp : m.prevented s = none)
    (hc : (s.performed k ack m).contention = true) :
    EndsInContention (s.foregroundSteps ++ [m]) (perform k ack m s) :=
  ⟨_, perform_of_contention hp hc, rfl, (does_performed k ack m s).foregroundSteps⟩

/-- The hazard of R334 (b). -/
theorem contention_of_driven_read {s : State} (hd : s.db.mask ≠ 0) {n : Signal} (hn : n = .rd ∨ n = .ioIn)
    (ha : s.asserted n = true) : s.contention = true := by
  have hread : (s.asserted .rd || s.asserted .ioIn) = true := by
    rcases hn with rfl | rfl <;> simp [ha]
  simp only [State.contention, bne_iff_ne.2 hd, hread, Bool.and_self, Bool.or_true]

/-- The level write that asserts a read strobe, where no tick comes before it. -/
theorem micro_of_driven_read {s : State} (hg : gap s = .ok s) (hd : s.db.mask ≠ 0) {n : Signal}
    (hn : n = .rd ∨ n = .ioIn) (hout : (s.line n).dir = .output) :
    EndsInContention (s.foregroundSteps ++ [.write n .low]) (micro false (assertLine n) s) := by
  have hpick : assertLine n = act (.write n .low) := by rcases hn with rfl | rfl <;> rfl
  have hactive : activeLevel n = .low := by rcases hn with rfl | rfl <;> rfl
  have hprev : (MicroStep.write n .low).prevented s = none := by simp [MicroStep.prevented, hout]
  have hline : (s.performed 0 false (.write n .low)).line n = { s.line n with lvl := .low } :=
    State.line_setLine_same n _ s
  rw [micro_of_gap hg, hpick]
  refine endsInContention_perform hprev (contention_of_driven_read hd hn (State.asserted_iff.2 ?_))
  exact ⟨(congrArg Line.dir hline).trans hout, (congrArg Line.lvl hline).trans hactive.symm⟩

/-! ### A cycle up to its strobe -/

section
variable (c : CycleKind)

/-- The cycle reads (R220, R222). -/
abbrev CycleKind.Reads : Prop := c.strobe = .rd ∨ c.strobe = .ioIn

/-- The lines strobed before the cycle's own strobe. -/
def CycleKind.linesBefore : List Signal :=
  match c.shape with
  | .full => [.ras]
  | .strobeOnly => []

/-- The strobes before the cycle's own. -/
def CycleKind.before : List Pick :=
  match c.shape with
  | .full => [assertLine .ras, hold c.h1]
  | .strobeOnly => []

/-- The strobes after the cycle's own, up to the sample or the taking of the byte. -/
def CycleKind.after : List Pick :=
  match c.shape with
  | .full => [hold c.h2, assertLine .mux, hold c.h3, assertLine .cas, hold c.h4]
  | .strobeOnly => [hold c.h2]

/-- The micro-steps of `before`. -/
def CycleKind.beforeSteps (T : Timing) : List MicroStep :=
  match c.shape with
  | .full => [.write .ras .low, .hold c.h1 (T.bound c.h1)]
  | .strobeOnly => []

/-- A read cycle's micro-steps before its strobe. -/
def CycleKind.stepsBefore (s : State) (A : Addr) : List MicroStep :=
  [.check, .setMasked true] ++ (addressStep s A :: c.beforeSteps s.params.timing)

theorem CycleKind.on_eq : c.on = c.before ++ assertLine c.strobe :: c.after := by
  obtain ⟨shape, strobe, h1, h2, h3, h4⟩ := c
  cases shape <;> rfl

theorem CycleKind.picked_before (s : State) : picked c.before s = c.beforeSteps s.params.timing := by
  obtain ⟨shape, strobe, h1, h2, h3, h4⟩ := c
  cases shape <;> rfl

theorem CycleKind.cyclePick_before : ∀ p ∈ c.before, CyclePick c.linesBefore p := by
  unfold CycleKind.before CycleKind.linesBefore
  split
  · simp [cyclePick_assertLine (lines := [.ras]) (n := .ras) rfl]
  · nofun

/-- No read strobe comes before the cycle's own. -/
theorem CycleKind.strobesRead_linesBefore : strobesRead c.linesBefore = false := by
  unfold CycleKind.linesBefore
  split <;> rfl

theorem CycleKind.mem_lines_of_before : ∀ n ∈ c.linesBefore, n ∈ c.lines := by
  obtain ⟨shape, strobe, h1, h2, h3, h4⟩ := c
  cases shape <;> simp [CycleKind.linesBefore, CycleKind.lines]

theorem CycleKind.strobe_mem_lines : c.strobe ∈ c.lines := by
  unfold CycleKind.lines
  split <;> simp

end

/-- Before its strobe a read cycle writes neither the strobe's line nor the data bus. -/
theorem CycleKind.foldl_stepsBefore {c : CycleKind} (hc : c.Reads) (s : State) (A : Addr) :
    ((c.stepsBefore s A).foldl MicroStep.apply s).line c.strobe = s.line c.strobe ∧
      ((c.stepsBefore s A).foldl MicroStep.apply s).db = s.db := by
  obtain ⟨shape, strobe, h1, h2, h3, h4⟩ := c
  rw [CycleKind.stepsBefore, List.foldl_append, List.foldl_cons, apply_addressStep]
  cases shape <;> rcases hc with h | h <;> subst h <;> exact ⟨rfl, rfl⟩

section
variable {c : CycleKind} {s : State} {body : Pick} {A : Addr} (haddr : WritesAddress body s A)
  (hbody : ∀ lines, CyclePick lines (cycleAddress body)) (hs : CycleReady s c.lines)
include haddr hbody hs

/-- A cycle reaches its strobe, with the ticks that come before its mask, whether the data bus is driven or not. -/
theorem CycleKind.reaches_strobe : ∃ u v, seq opening s = .ok u ∧ seq (cycleAddress body :: c.before) u = .ok v ∧
    gap v = .ok v ∧ Performs s v (c.stepsBefore s A) := by
  have hfit : CycleFit c.linesBefore s :=
    { isMutable := hs.isMutable
      granted := hs.granted
      noRead := hs.noRead
      noIn := hs.noIn
      outputs := fun n hn => hs.outputs n (c.mem_lines_of_before n hn)
      undriven := fun hr => absurd (c.strobesRead_linesBefore.symm.trans hr) (by simp)
      ready := hs.tickReady }
  obtain ⟨u, hu, hsu, -⟩ := opening_of_fit hfit
  have same {β : Type} (f : State → β) := congrArg f hsu.cells
  have hab : u.sansTicks.ab = s.sansTicks.ab := same State.ab
  have hpicks : ∀ p ∈ cycleAddress body :: c.before, CyclePick c.linesBefore p :=
    List.forall_mem_cons.2 ⟨hbody _, c.cyclePick_before⟩
  obtain ⟨hv, midv⟩ := seq_of_midCycle hpicks (hfit.midCycle hsu)
  have hpicked : picked (cycleAddress body :: c.before) u = addressStep s A :: c.beforeSteps s.params.timing := by
    simp only [picked, haddr u hab hsu.params, CycleKind.picked_before, State.performed_params, MicroStep.apply_params,
      hsu.params]
  have huv := (performs_ran_of_cyclePicks hpicks u).1
  rw [hpicked] at huv
  exact ⟨u, _, hu, hv, midv.gap, hsu.trans huv⟩

/-- A read cycle with the data bus driven ends at its strobe. -/
theorem CycleKind.readCycle_of_driven (hc : c.Reads) (hd : s.db.mask ≠ 0)
    (sample : State → Except Fault (Byte × State)) :
    EndsInContention (s.foregroundSteps ++ (c.stepsBefore s A ++ [.write c.strobe .low]))
      (c.readCycle body sample s) := by
  obtain ⟨u, v, hu, hv, hgap, hsv⟩ := CycleKind.reaches_strobe haddr hbody hs
  obtain ⟨hline, hdb⟩ := CycleKind.foldl_stepsBefore hc s A
  have same {β : Type} (f : State → β) := congrArg f hsv.cells
  have hmask : v.db.mask ≠ 0 := by
    have kept : v.db = ((c.stepsBefore s A).foldl MicroStep.apply s).db := same State.db
    rwa [kept, hdb]
  have hout : (v.line c.strobe).dir = .output := by
    have kept : v.line c.strobe = ((c.stepsBefore s A).foldl MicroStep.apply s).line c.strobe := by
      have hcells := same (State.line · c.strobe)
      rcases hc with h | h <;> rw [h] at hcells ⊢ <;> exact hcells
    rw [kept, hline]
    exact hs.outputs _ c.strobe_mem_lines
  have hend := micro_of_driven_read hgap hmask hc hout
  rw [hsv.foregroundSteps, List.append_assoc] at hend
  have hsplit : c.readOn body = (cycleAddress body :: c.before) ++ assertLine c.strobe :: c.after := by
    rw [CycleKind.readOn, CycleKind.on_eq, List.cons_append]
  rw [CycleKind.readCycle, hu, ok_bind, hsplit, seq_append, hv, ok_bind, seq_cons]
  exact (hend.bind _).bind _

end

/-- Settles O43: both commands are read cycles, which end at their strobe where the data bus is driven. -/
theorem drivenReadFaults : Obligations.DrivenReadFaults := by
  refine fun s hd => ⟨fun a h => ?_, fun p h => ?_⟩
  · have hidle := State.idle_eq_self h.inv.idlePosition h.inv.idleDrive
    have hend := CycleKind.readCycle_of_driven (c := memReads) (writesAddress_abWraddr s a)
      (fun _ => cyclePick_address a) h (.inl rfl) hd sampleMemory
    rw [← rdmemBody_eq_readCycle h.isMutable] at hend
    unfold exec execBcRdmem
    refine EndsInContention.command ?_
    rw [hidle]
    exact hend.bind _
  · have hidle := State.idle_eq_self h.inv.idlePosition h.inv.idleDrive
    rw [(ioLines_eq_lines s).1] at h
    have hend := CycleKind.readCycle_of_driven (c := portReads s.params.ioShape) (writesAddress_abWrioaddr s p)
      (fun _ => cyclePick_ioAddress p) h (.inr rfl) hd sampleIoPort
    rw [← rdioBody_eq_readCycle h.isMutable] at hend
    unfold exec execBcRdio
    refine EndsInContention.command ?_
    rw [hidle]
    split <;> rename_i hshape <;> rw [hshape] at hend <;> exact hend.bind _

end Sys2Proof.Machine
